-- ==== Sys2Proof/Config.lean ====
section
/-! DEFINITION. The implementation parameters of 00_scope.md R8, under the names of its table, and the constant `K120`.
The spec fixes every one of them (92_eei_decisions.md: "No point is left `OPEN`"), and no value of the block is left
undefined, so this file has no free value. The word types of Word.lean and the constants of Machine/Operands.lean are
written with the numbers the pseudocode shows; Laws/Formats.lean proves that they are these parameters. -/

namespace Sys2Proof.Config

/-- Width in bits of a phase word; one turn is `2 ^ PW` (R8). -/
abbrev PW : Nat := 32
/-- Width of a frequency register (R8). -/
abbrev FW : Nat := 32
/-- Fraction bits of a frequency register, unit Hz (R8). -/
abbrev FF : Nat := 16
/-- Width of the voltage register (R8). -/
abbrev VW : Nat := 32
/-- Fraction bits of the voltage register, unit 1 (R8). -/
abbrev VF : Nat := 16
/-- Width of the `dt` operand (R8). -/
abbrev DTW : Nat := 32
/-- Fraction bits of the `dt` operand, unit s (R8). -/
abbrev DTF : Nat := 32
/-- Sine table index bits: `2 ^ SB` table intervals per turn (R8). -/
abbrev SB : Nat := 10
/-- Fraction bits of a sine value (R8). -/
abbrev SF : Nat := 30
/-- Width of a filter sample (R8). -/
abbrev XW : Nat := 32
/-- Fraction bits of a filter sample (R8). -/
abbrev XF : Nat := 28
/-- Width of a filter coefficient (R8). -/
abbrev CW : Nat := 32
/-- Fraction bits of a filter coefficient (R8). -/
abbrev CF : Nat := 30
/-- Width of a command word (R8). -/
abbrev CMDW : Nat := 72
/-- Number of phase legs, named U, V, W (R8). -/
abbrev NPH : Nat := 3

/-- The phase word of `2π/3`: `round (2^32 / 3)` (R8, 41_pwm_generator.md R131). -/
def K120 : BitVec 32 := 0x55555555

end Sys2Proof.Config
end

