-- ==== Sys2Proof/Word.lean ====
section
/-! DEFINITION. The two word types: a 32-bit register or operand, and a 72-bit command word (00_scope.md R8, R10). -/

namespace Sys2Proof

/-- The contents of a register, an operand of a command or a response field: 32 bits, bit 0 the least significant (R10). -/
abbrev Word := BitVec 32

/-- A command word: 72 bits in the format `CMD72` (30_encoding.md R70). -/
abbrev CmdWord := BitVec 72

end Sys2Proof
end

