-- ==== Sys2Proof/Machine/State.lean ====
section
/-! DEFINITION. The state of one PAPWM instance, 10_state.md R20 ("exactly the following state and nothing else"), with
the two port fields of the model (log entries 1 and 2), the reasons a step can stop, and the state after reset. -/

namespace Sys2Proof.Machine

/-- The parameter file `P` or its staging file `D`: five registers (10_state.md R20, R21, R23). -/
structure Params where
  /-- fundamental frequency, unsigned, 16 fraction bits, Hz -/
  freq : Word
  /-- modulation index, unsigned, 16 fraction bits -/
  volt : Word
  /-- a phase word that nothing interprets (R22) -/
  phase : Word
  /-- carrier frequency, unsigned, 16 fraction bits, Hz -/
  cfreq : Word
  /-- pulse-mode tag (41_pwm_generator.md R134) -/
  pmode : Word
deriving DecidableEq, Repr

/-- The coefficient file `C` or its staging file `DC`: two's complement, 30 fraction bits (10_state.md R30). -/
structure Coefs where
  b0 : Word
  b1 : Word
  b2 : Word
  a1 : Word
  a2 : Word
deriving DecidableEq, Repr

/-- The history of one filter: two past inputs, two past outputs, two's complement, 28 fraction bits (10_state.md R31). -/
structure Hist where
  x1 : Word
  x2 : Word
  y1 : Word
  y2 : Word
deriving DecidableEq, Repr

/-- The history file `H[k]`, `k` = 0 (U), 1 (V), 2 (W) (10_state.md R20, R31). -/
structure Bank where
  u : Hist
  v : Hist
  w : Hist
deriving DecidableEq, Repr

/-- The name of a phase leg (00_scope.md R8 `NPH`). -/
inductive LegName where
  | u
  | v
  | w
deriving DecidableEq, Repr

/-- A leg value, `+1` or `-1` and nothing else (30_encoding.md R79, 41_pwm_generator.md R143). -/
inductive Leg where
  | pos
  | neg
deriving DecidableEq, Repr

/-- A register of `P` or `D` as a selector names it (20_memory.md R51). -/
inductive ParamSel where
  | freq
  | volt
  | phase
  | cfreq
  | pmode
deriving DecidableEq, Repr

/-- A register of `C` or `DC` as a selector names it (20_memory.md R51). -/
inductive CoefSel where
  | b0
  | b1
  | b2
  | a1
  | a2
deriving DecidableEq, Repr

/-- The response of a command with the fields of its kind, 30_encoding.md R78. A field the kind does not name does not
exist here: "a model does not produce them" (93_implementation_defined.md I5). -/
inductive Response where
  /-- `rsp_kind` = 0 -/
  | none
  /-- `rsp_kind` = 1, `PWM` -/
  | pwm (u v w : BitVec 1) (th : Word)
  /-- `rsp_kind` = 2, `FILT` -/
  | filt (u v w : BitVec 1) (th yu yv yw : Word)
  /-- `rsp_kind` = 3, `SNAP` -/
  | snap (freq volt phase cfreq pmode theta ctheta : Word)
deriving DecidableEq, Repr

/-- What the host drives on the input ports at one rising edge of `clk` at which `cmd_ready` is 1 (20_memory.md R53). -/
structure PortIn where
  rst : Bool
  valid : Bool
  cmd : CmdWord
deriving DecidableEq, Repr

/-- One instance. The fields from `p` to `sat` are the registers of 10_state.md R20; `pins` and `rsp` are the model's
record of the ports, read or written by no rule of the spec as state. -/
structure State where
  /-- `P`, the active parameters -/
  p : Params
  /-- `D`, the pending configuration push -/
  d : Params
  /-- `DMASK[4:0]`: bit `s` says that field `s` of `D` is present in the pending push -/
  dmask : BitVec 5
  /-- `TH`, the fundamental angle -/
  th : Word
  /-- `CT`, the carrier angle -/
  ct : Word
  /-- `C`, the active coefficients of all three filters -/
  c : Coefs
  /-- `DC`, the staged coefficients -/
  dc : Coefs
  /-- `H`, the filter histories -/
  h : Bank
  /-- `FEN`, filters enabled -/
  fen : Bool
  /-- `ILL`, sticky: a word that spells no command was presented -/
  ill : Bool
  /-- `SAT`, sticky: a filter output was clamped -/
  sat : Bool
  /-- the port inputs still to come, one per edge, first edge first (DESIGN CHOICE, safe: log entry 1) -/
  pins : List PortIn
  /-- the response outputs after the step that led here; no step reads them (DESIGN CHOICE, safe: log entry 2) -/
  rsp : Response
deriving DecidableEq, Repr

/-- The reasons a step can fault: there is none, because "No command raises an exception" and every word, in every state,
"completes in one step" (60_exceptions.md R190). Raised by nothing; safe. -/
inductive Fault where
deriving DecidableEq, Repr

/-- The reasons a step can refuse an instruction. -/
inductive Refusal where
  /-- An arm of `exec` whose instruction has no meaning. Raised by no arm: all twelve commands have their meaning. Safe. -/
  | notModelled (mnemonic : String)
deriving DecidableEq, Repr

/-- All five parameter registers zero. -/
def Params.zero : Params := ⟨0, 0, 0, 0, 0⟩

/-- All five coefficient registers zero. -/
def Coefs.zero : Coefs := ⟨0, 0, 0, 0, 0⟩

/-- "a freshly constructed filter starts at zero history" (10_state.md R34). -/
def Hist.zero : Hist := ⟨0, 0, 0, 0⟩

/-- The state after reset: "After reset every register of rule R20 is zero" (10_state.md R34), `rsp_kind` is 0
(70_reset_and_hazards.md R210), and the host has presented nothing yet (log entry 1). -/
def State.reset : State :=
  { p := Params.zero, d := Params.zero, dmask := 0, th := 0, ct := 0, c := Coefs.zero, dc := Coefs.zero,
    h := ⟨Hist.zero, Hist.zero, Hist.zero⟩, fen := false, ill := false, sat := false, pins := [], rsp := .none }

end Sys2Proof.Machine
end

