-- ==== Sys2Proof/Machine/Operands.lean ====
section
/-! DEFINITION. How words are read and written as numbers (00_scope.md R11), the selector spaces (20_memory.md R51), and
leg values (30_encoding.md R79). All arithmetic of the model is over the mathematical integers, narrowed here. -/

namespace Sys2Proof.Machine

/-- `s32(v)`: the two's complement reading of a word (R11). -/
def s32 (v : Word) : Int := v.toInt

/-- `u32(v)`: `v mod 2^32`, the true modulo, as a word (R11). -/
def u32 (v : Int) : Word := BitVec.ofInt 32 v

/-- `sat32(v)`: `v` clamped to `[-2^31, 2^31 - 1]` (R11). -/
def sat32 (v : Int) : Int := max (-2 ^ 31) (min v (2 ^ 31 - 1))

/-- The truth value of an operand: "zero is false, anything else is true" (30_encoding.md R72). -/
def truth (a : Word) : Bool := a != 0

/-- The parameter register a selector names; none for 5 to 15 (R51). -/
def paramSel (sel : BitVec 4) : Option ParamSel :=
  match sel.toNat with
  | 0 => some .freq
  | 1 => some .volt
  | 2 => some .phase
  | 3 => some .cfreq
  | 4 => some .pmode
  | _ => none

/-- The selector number of a parameter register, its bit of `DMASK` too (R51, 10_state.md R23). -/
def ParamSel.index : ParamSel → Nat
  | .freq => 0
  | .volt => 1
  | .phase => 2
  | .cfreq => 3
  | .pmode => 4

/-- The coefficient register a selector names; none for 5 to 15 (R51). -/
def coefSel (sel : BitVec 4) : Option CoefSel :=
  match sel.toNat with
  | 0 => some .b0
  | 1 => some .b1
  | 2 => some .b2
  | 3 => some .a1
  | 4 => some .a2
  | _ => none

/-- `D[sel]` or `P[sel]` read. -/
def Params.get (r : Params) : ParamSel → Word
  | .freq => r.freq
  | .volt => r.volt
  | .phase => r.phase
  | .cfreq => r.cfreq
  | .pmode => r.pmode

/-- `D[sel] <- a` or `P[sel] <- a`: "A selector always names a whole 32-bit register" (20_memory.md R57). -/
def Params.set (r : Params) (f : ParamSel) (a : Word) : Params :=
  match f with
  | .freq => { r with freq := a }
  | .volt => { r with volt := a }
  | .phase => { r with phase := a }
  | .cfreq => { r with cfreq := a }
  | .pmode => { r with pmode := a }

/-- `C[sel]` or `DC[sel]` read. -/
def Coefs.get (r : Coefs) : CoefSel → Word
  | .b0 => r.b0
  | .b1 => r.b1
  | .b2 => r.b2
  | .a1 => r.a1
  | .a2 => r.a2

/-- `DC[sel] <- a`. -/
def Coefs.set (r : Coefs) (f : CoefSel) (a : Word) : Coefs :=
  match f with
  | .b0 => { r with b0 := a }
  | .b1 => { r with b1 := a }
  | .b2 => { r with b2 := a }
  | .a1 => { r with a1 := a }
  | .a2 => { r with a2 := a }

/-- `H[k]` read. -/
def Bank.get (b : Bank) : LegName → Hist
  | .u => b.u
  | .v => b.v
  | .w => b.w

/-- The number a leg value stands for, `+1` or `-1` (30_encoding.md R79). -/
def Leg.toInt : Leg → Int
  | .pos => 1
  | .neg => -1

/-- `bit(v)`: "1 for `+1` and 0 for `-1`" (R79). -/
def Leg.bit : Leg → BitVec 1
  | .pos => 1
  | .neg => 0

/-- A leg value as a filter input: `+1` enters as `+2^28`, `-1` as `-2^28` (42_biquad_filter.md R169). -/
def Leg.sample (l : Leg) : Int := l.toInt * 2 ^ 28

end Sys2Proof.Machine
end

