-- ==== Sys2Proof/Machine/Comparator.lean ====
section
/-! DEFINITION. The pure function `generate` and its helpers: 41_pwm_generator.md R130 to R142. Equal arguments give equal
results; nothing here reads or writes state. -/

namespace Sys2Proof.Machine

/-- What a pulse-mode tag selects: the asynchronous carrier, or a carrier locked to `n` times the fundamental (R134). -/
inductive PulseMode where
  | async
  | sync (n : Nat)
deriving DecidableEq, Repr

/-- `decode_pmode`: the table of R134, total over the 32-bit tags; `CHM` (11) and the reserved tags are `N = 1`. -/
def decodePmode (tag : Word) : PulseMode :=
  match tag.toNat with
  | 0 => .async
  | 1 => .sync 1
  | 2 => .sync 3
  | 3 => .sync 5
  | 4 => .sync 7
  | 5 => .sync 9
  | 6 => .sync 11
  | 7 => .sync 13
  | 8 => .sync 15
  | 9 => .sync 27
  | 10 => .sync 45
  | _ => .sync 1

/-- `TRI(c)`: the triangle of a carrier phase word scaled by `2^46`, exactly (R137). -/
def tri (c : Word) : Int :=
  if c.toNat < 2 ^ 31 then ((c.toNat : Int) - 2 ^ 30) * 2 ^ 16 else (3 * 2 ^ 30 - (c.toNat : Int)) * 2 ^ 16

/-- The modulating value `M = volt · SIN(phi)`, an exact product scaled by `2^46` (R141). -/
def modulating (phi volt : Word) : Int := (volt.toNat : Int) * sin phi

/-- `triangle_compare`: `+1` if the modulating value exceeds the triangle value, else `-1`; the comparison is strict
(R141). -/
def triangleCompare (phi c volt : Word) : Leg := if modulating phi volt > tri c then .pos else .neg

/-- The case `N = 1`: `+1` on the first half of the turn, `-1` on the second; no sine, no triangle (R142). -/
def squareWave (phi : Word) : Leg := if phi.toNat < 2 ^ 31 then .pos else .neg

/-- The locked carrier `u32(phi * N)` (R136). -/
def lockedCarrier (phi : Word) (n : Nat) : Word := u32 ((phi.toNat : Int) * (n : Int))

/-- `comparePhase(phi, ct, volt, pmode)` (R133). -/
def comparePhase (phi ct volt pmode : Word) : Leg :=
  match decodePmode pmode with
  | .async => triangleCompare phi ct volt
  | .sync n => if n = 1 then squareWave phi else triangleCompare phi (lockedCarrier phi n) volt

/-- The three leg values "plus the normalized fundamental angle used to compute them" (30_encoding.md R78). -/
structure PwmOut where
  u : Leg
  v : Leg
  w : Leg
  th : Word
deriving DecidableEq, Repr

/-- `generate(th, ct, volt, pmode)`: leg U at `th`, V at `th - K120`, W at `th + K120`, each wrapped with `u32` and
compared independently (R130, R131). -/
def generate (th ct volt pmode : Word) : PwmOut :=
  { u := comparePhase th ct volt pmode
    v := comparePhase (u32 ((th.toNat : Int) - (Config.K120.toNat : Int))) ct volt pmode
    w := comparePhase (u32 ((th.toNat : Int) + (Config.K120.toNat : Int))) ct volt pmode
    th := th }

end Sys2Proof.Machine
end

