-- ==== Sys2Proof/Machine/Flags.lean ====
section
/-! DEFINITION. The two sticky flags, `ILL` and `SAT` (10_state.md R28): who sets them, and the status output. There are no
condition codes and "no command reads a flag". -/

namespace Sys2Proof.Machine

/-- `flag ILL`: `ILL <- 1` (00_scope.md R13, 30_encoding.md R80). -/
def State.flagIll (s : State) : State := { s with ill := true }

/-- `if y != yr: flag SAT`: whether the clamp changes a rounded filter sum (42_biquad_filter.md R167). -/
def clamps (yr : Int) : Bool := sat32 yr != yr

/-- `flag SAT` when some leg was clamped; "each leg's clamp is independent of the others" (60_exceptions.md R193). -/
def State.flagSat (s : State) (clamped : Bool) : State := { s with sat := s.sat || clamped }

/-- The output `status[1:0]`, which is `{SAT, ILL}` (20_memory.md R56). -/
def State.status (s : State) : BitVec 2 := BitVec.ofBool s.sat ++ BitVec.ofBool s.ill

/-- The output `rsp_kind[1:0]` (30_encoding.md R78). -/
def Response.kind : Response → BitVec 2
  | .none => 0
  | .pwm _ _ _ _ => 1
  | .filt _ _ _ _ _ _ _ => 2
  | .snap _ _ _ _ _ _ _ => 3

end Sys2Proof.Machine
end

