-- ==== Sys2Proof/Machine/Recurrence.lean ====
section
/-! DEFINITION. The filter recurrence `process`: 42_biquad_filter.md R166, R167. It is Direct Form I (90_conflicts.md C1). -/

namespace Sys2Proof.Machine

/-- The sum of five exact products, `b0·x + b1·x1 + b2·x2 - a1·y1 - a2·y2`, with 58 fraction bits (R166). -/
def filterSum (c : Coefs) (h : Hist) (x : Int) : Int :=
  s32 c.b0 * x + s32 c.b1 * s32 h.x1 + s32 c.b2 * s32 h.x2 - s32 c.a1 * s32 h.y1 - s32 c.a2 * s32 h.y2

/-- `yr = (acc + 2^29) >> 30`: rounding to 28 fraction bits, to nearest, a tie toward plus infinity (R167). -/
def filterRound (acc : Int) : Int := (acc + 2 ^ 29) / 2 ^ 30

/-- What one pass of a filter yields: the output, the shifted history, and whether the clamp acted. -/
structure FilterOut where
  y : Int
  hist : Hist
  clamped : Bool
deriving DecidableEq, Repr

/-- `process(k, x)` on the history of leg `k`: the four reads see the history before the step and the four writes take
effect together; the stored `y1` is the rounded and clamped output (R166). -/
def process (c : Coefs) (h : Hist) (x : Int) : FilterOut :=
  { y := sat32 (filterRound (filterSum c h x))
    hist := { x1 := u32 x, x2 := h.x1, y1 := u32 (sat32 (filterRound (filterSum c h x))), y2 := h.y1 }
    clamped := clamps (filterRound (filterSum c h x)) }

end Sys2Proof.Machine
end

