-- ==== Sys2Proof/Machine/Ops.lean ====
section
/-! DEFINITION. The named operations over registers that the commands share. The block has no memory (20_memory.md R50) and
takes no exception: "`raise` occurs in no rule of this spec" (60_exceptions.md R190). What stands in an exception's place is
`flag ILL` and `flag SAT` (Flags.lean) and the one operation `State.rejectWord` for a word that spells no command. -/

namespace Sys2Proof.Machine

/-- `respond <kind>(fields)`: the response of the step (00_scope.md R13). A command without `respond` responds none. -/
def State.respond (s : State) (r : Response) : State := { s with rsp := r }

/-- An illegal word "sets `ILL <- 1`, changes no other state, and produces no response" (30_encoding.md R80). -/
def State.rejectWord (s : State) : State := s.flagIll.respond .none

/-- `D[sel] <- a; DMASK[sel] <- 1` (40_phase_accumulator.md R102). -/
def State.loadDelta (s : State) (f : ParamSel) (a : Word) : State :=
  { s with d := s.d.set f a, dmask := s.dmask ||| (1#5 <<< f.index) }

/-- One round of the merge: `if DMASK[s] == 1: P[s] <- D[s]` (R103). -/
def mergeField (dmask : BitVec 5) (d p : Params) (f : ParamSel) : Params :=
  if dmask.getLsbD f.index then p.set f (d.get f) else p

/-- `applyParams(delta)`: the fields present in the pending push replace those of `P`, and `DMASK <- 0` (R103). -/
def State.mergeDelta (s : State) : State :=
  { s with
    p := [ParamSel.freq, .volt, .phase, .cfreq, .pmode].foldl (mergeField s.dmask s.d) s.p
    dmask := 0 }

/-- The increment of a phase, `floor(f * s32(a) / 2^16)`, exact product, then floor (R105). -/
def phaseInc (f a : Word) : Int := (f.toNat : Int) * s32 a / 2 ^ 16

/-- One phase after a step, `u32(phase + inc)` (R105). -/
def phaseStep (phase f a : Word) : Word := u32 ((phase.toNat : Int) + phaseInc f a)

/-- `advance(dt)`: both phases move by their frequency times `dt` and wrap (R105). -/
def State.advancePhases (s : State) (a : Word) : State :=
  { s with th := phaseStep s.th s.p.freq a, ct := phaseStep s.ct s.p.cfreq a }

/-- The `PWM` response of a comparator result (30_encoding.md R78, R79). -/
def PwmOut.response (o : PwmOut) : Response := .pwm o.u.bit o.v.bit o.w.bit o.th

/-- `DC[sel] <- a` (42_biquad_filter.md R161). -/
def State.loadCoef (s : State) (f : CoefSel) (a : Word) : State := { s with dc := s.dc.set f a }

/-- `setCoefficients`: all five staged coefficients replace the active ones; no history is cleared (R162). -/
def State.commitCoefs (s : State) : State := { s with c := s.dc }

/-- The comparator on the instance's own angles and active parameters (40_phase_accumulator.md R108). -/
def State.sampleLegs (s : State) : PwmOut := generate s.th s.ct s.p.volt s.p.pmode

/-- The `FILT` response with the three filtered or bypassed values (30_encoding.md R78). -/
def PwmOut.filtResponse (o : PwmOut) (yu yv yw : Int) : Response :=
  .filt o.u.bit o.v.bit o.w.bit o.th (u32 yu) (u32 yv) (u32 yw)

/-- The filters disabled: the comparator values themselves in the sample format; `H` and `C` are not touched and `SAT`
cannot be set (42_biquad_filter.md R170). -/
def State.bypassLegs (s : State) (o : PwmOut) : State :=
  s.respond (o.filtResponse o.u.sample o.v.sample o.w.sample)

/-- The filters enabled: each leg's value goes through that leg's filter, with the one coefficient file (R169). -/
def State.filterLegs (s : State) (o : PwmOut) : State :=
  let fu := process s.c s.h.u o.u.sample
  let fv := process s.c s.h.v o.v.sample
  let fw := process s.c s.h.w o.w.sample
  ({ s with h := ⟨fu.hist, fv.hist, fw.hist⟩ }.flagSat (fu.clamped || fv.clamped || fw.clamped)).respond
    (o.filtResponse fu.y fv.y fw.y)

/-- One pass of the loop body: sample, then filter or bypass (R169). -/
def State.processLegs (s : State) : State :=
  if s.fen then s.filterLegs s.sampleLegs else s.bypassLegs s.sampleLegs

end Sys2Proof.Machine
end

