-- ==== Sys2Proof/Syntax.lean ====
section
/-! DEFINITION. The twelve commands of 30_encoding.md R76, one constructor per row of spec/opcode_table.json. -/

namespace Sys2Proof

/-- A command with the operands its row of the opcode map names (R76). A field the command does not use is no part of
it, because "an unused field is ignored" (R75). The selector of `LDD` and `LDC` keeps all four of its bits (R74);
WellFormed.lean says which values are legal. -/
inductive Instr where
  /-- `NOP`, R100. -/
  | nop
  /-- `LDD sel, a`, R102: load one field of the pending configuration push. -/
  | ldd (sel : BitVec 4) (a : Word)
  /-- `APPLY`, R103: merge the pending push into the active parameters. -/
  | apply
  /-- `ADVANCE a`, R105: integrate both phases over `dt = a`. -/
  | advance (a : Word)
  /-- `SAMPLE`, R108: the comparator output for the current phase state. -/
  | sample
  /-- `SNAPSHOT`, R110: copy of parameters and phase state. -/
  | snapshot
  /-- `GEN a, b`, R145: the comparator output for the angles `a` = theta and `b` = carrierTheta. -/
  | gen (a b : Word)
  /-- `LDC sel, a`, R161: load one staged coefficient. -/
  | ldc (sel : BitVec 4) (a : Word)
  /-- `SETCOEF`, R162: commit the five staged coefficients. -/
  | setcoef
  /-- `FCTL a`, R164: enable (`a ≠ 0`) or disable the filters. -/
  | fctl (a : Word)
  /-- `PROC`, R169: sample, and filter each leg if enabled. -/
  | proc
  /-- `TICK a`, R172: `PROC`, then `ADVANCE a`. -/
  | tick (a : Word)
deriving DecidableEq, Repr

end Sys2Proof
end

