-- ==== Sys2Proof/Machine/BiquadFilter.lean ====
section
/-! DEFINITION. The BiquadFilter commands `LDC`, `SETCOEF`, `FCTL`, `PROC`, `TICK`: 42_biquad_filter.md R161 to R172. -/

namespace Sys2Proof.Machine

/-- `LDC sel, a`: load one staged coefficient, or `flag ILL` for a selector that names none (R161). -/
def execLdc (sel : BitVec 4) (a : Word) (s : State) : Host.Outcome State Fault Refusal :=
  match coefSel sel with
  | some f => .next ((s.loadCoef f a).respond .none)
  | none => .next s.rejectWord

/-- `SETCOEF`: copy all five staged coefficients (R162). -/
def execSetcoef (s : State) : Host.Outcome State Fault Refusal := .next (s.commitCoefs.respond .none)

/-- `FCTL a`: `FEN <- 1 if a != 0 else 0` (R164). -/
def execFctl (a : Word) (s : State) : Host.Outcome State Fault Refusal :=
  .next (({ s with fen := truth a } : State).respond .none)

/-- `PROC`: sample, and filter each leg if enabled (R169, R170). -/
def execProc (s : State) : Host.Outcome State Fault Refusal := .next s.processLegs

/-- `TICK a`: "exactly `PROC` followed by `ADVANCE a` executed as one atomic command, in that order", with the response of
the `PROC` (R172). -/
def execTick (a : Word) (s : State) : Host.Outcome State Fault Refusal := .next (s.processLegs.advancePhases a)

end Sys2Proof.Machine
end

