-- ==== Sys2Proof/Machine/PhaseAccumulator.lean ====
section
/-! DEFINITION. The PhaseAccumulator commands `NOP`, `LDD`, `APPLY`, `ADVANCE`, `SAMPLE`, `SNAPSHOT`:
40_phase_accumulator.md R100 to R110. None of them can fail (60_exceptions.md R190). -/

namespace Sys2Proof.Machine

/-- `NOP`: "Pseudocode: nothing" (R100). -/
def execNop (s : State) : Host.Outcome State Fault Refusal := .next (s.respond .none)

/-- `LDD sel, a`: load one field of the pending push, or `flag ILL` for a selector that names none (R102). -/
def execLdd (sel : BitVec 4) (a : Word) (s : State) : Host.Outcome State Fault Refusal :=
  match paramSel sel with
  | some f => .next ((s.loadDelta f a).respond .none)
  | none => .next s.rejectWord

/-- `APPLY`: merge the pending push into the active parameters (R103). -/
def execApply (s : State) : Host.Outcome State Fault Refusal := .next (s.mergeDelta.respond .none)

/-- `ADVANCE a`: integrate both phases over `dt` (R105). -/
def execAdvance (a : Word) (s : State) : Host.Outcome State Fault Refusal := .next ((s.advancePhases a).respond .none)

/-- `SAMPLE`: the comparator output for the current phase state; "State written: none" (R108). -/
def execSample (s : State) : Host.Outcome State Fault Refusal := .next (s.respond s.sampleLegs.response)

/-- `SNAPSHOT`: a copy of `P.*`, `TH` and `CT`; "State written: none" (R110). -/
def execSnapshot (s : State) : Host.Outcome State Fault Refusal :=
  .next (s.respond (.snap s.p.freq s.p.volt s.p.phase s.p.cfreq s.p.pmode s.th s.ct))

end Sys2Proof.Machine
end

