-- ==== Sys2Proof/Machine/PwmGenerator.lean ====
section
/-! DEFINITION. The PWMGenerator command `GEN`: 41_pwm_generator.md R145. -/

namespace Sys2Proof.Machine

/-- `GEN a, b`: `generate` on the host's angles and the active parameters; "`TH` and `CT` are neither read nor written"
(R145). -/
def execGen (a b : Word) (s : State) : Host.Outcome State Fault Refusal :=
  .next (s.respond (generate a b s.p.volt s.p.pmode).response)

end Sys2Proof.Machine
end

