-- ==== Sys2Proof/Machine/Dispatch.lean ====
section
/-! DEFINITION. One arm per command (30_encoding.md R76). -/

namespace Sys2Proof.Machine

def exec (i : Instr) (s : State) : Host.Outcome State Fault Refusal :=
  match i with
  | .nop => Sys2Proof.Machine.execNop s
  | .ldd sel a => Sys2Proof.Machine.execLdd sel a s
  | .apply => Sys2Proof.Machine.execApply s
  | .advance a => Sys2Proof.Machine.execAdvance a s
  | .sample => Sys2Proof.Machine.execSample s
  | .snapshot => Sys2Proof.Machine.execSnapshot s
  | .gen a b => Sys2Proof.Machine.execGen a b s
  | .ldc sel a => Sys2Proof.Machine.execLdc sel a s
  | .setcoef => Sys2Proof.Machine.execSetcoef s
  | .fctl a => Sys2Proof.Machine.execFctl a s
  | .proc => Sys2Proof.Machine.execProc s
  | .tick a => Sys2Proof.Machine.execTick a s

end Sys2Proof.Machine
end

