-- ==== Sys2Proof/WellFormed.lean ====
section
/-! DEFINITION. Which terms of `Instr` are legal commands: 30_encoding.md R74, R76, R80. -/

namespace Sys2Proof

/-- A selector that names a register: "0 to 4 are defined, 5 to 15 are reserved" (R74). -/
def legalSel (sel : BitVec 4) : Bool := sel.toNat ≤ 4

/-- "`LDD` and `LDC` are legal only when `sel <= 4`" (R76); every other command is legal with any operands (R81). -/
def wellFormed : Instr → Bool
  | .nop => true
  | .ldd sel _ => legalSel sel
  | .apply => true
  | .advance _ => true
  | .sample => true
  | .snapshot => true
  | .gen _ _ => true
  | .ldc sel _ => legalSel sel
  | .setcoef => true
  | .fctl _ => true
  | .proc => true
  | .tick _ => true

end Sys2Proof
end

