-- ==== Sys2Proof/Decode.lean ====
section
/-! DEFINITION. The decoder and the encoder of command words: 30_encoding.md R70 to R76, R80. -/

namespace Sys2Proof

/-- Why a word spells no command (R80). -/
inductive DecodeError where
  /-- `op` is `0xC`, `0xD`, `0xE` or `0xF`. -/
  | reservedOpcode (op : BitVec 4)
  /-- `op` is `0x1` (`LDD`) or `0x7` (`LDC`) and `sel` is 5 to 15. -/
  | reservedSelector (op sel : BitVec 4)
deriving DecidableEq, Repr

/-- Bits 71:68, the opcode (R70). -/
def opField (w : CmdWord) : BitVec 4 := w.extractLsb' 68 4

/-- Bits 67:64, the register selector (R70). -/
def selField (w : CmdWord) : BitVec 4 := w.extractLsb' 64 4

/-- Bits 63:32, the second operand (R70). -/
def bField (w : CmdWord) : Word := w.extractLsb' 32 32

/-- Bits 31:0, the first operand or immediate (R70). -/
def aField (w : CmdWord) : Word := w.extractLsb' 0 32

/-- The decoder, total over the `2^72` words: "It looks at `op` first; for `op` = 1 or 7 it then looks at `sel`" (R71),
with the opcode map of R76. Fields a command does not use are not read (R75). -/
def decode (w : CmdWord) : Except DecodeError Instr :=
  match (opField w).toNat with
  | 0x0 => .ok .nop
  | 0x1 => if legalSel (selField w) then .ok (.ldd (selField w) (aField w)) else .error (.reservedSelector (opField w) (selField w))
  | 0x2 => .ok .apply
  | 0x3 => .ok (.advance (aField w))
  | 0x4 => .ok .sample
  | 0x5 => .ok .snapshot
  | 0x6 => .ok (.gen (aField w) (bField w))
  | 0x7 => if legalSel (selField w) then .ok (.ldc (selField w) (aField w)) else .error (.reservedSelector (opField w) (selField w))
  | 0x8 => .ok .setcoef
  | 0x9 => .ok (.fctl (aField w))
  | 0xA => .ok .proc
  | 0xB => .ok (.tick (aField w))
  | _ => .error (.reservedOpcode (opField w))

/-- A word put together from its four fields, `{op, sel, b, a}` (R70). -/
def cmdWord (op sel : BitVec 4) (b a : Word) : CmdWord := op ++ sel ++ b ++ a

/-- The opcode of a command (R76). -/
def opcode : Instr → BitVec 4
  | .nop => 0x0
  | .ldd _ _ => 0x1
  | .apply => 0x2
  | .advance _ => 0x3
  | .sample => 0x4
  | .snapshot => 0x5
  | .gen _ _ => 0x6
  | .ldc _ _ => 0x7
  | .setcoef => 0x8
  | .fctl _ => 0x9
  | .proc => 0xA
  | .tick _ => 0xB

/-- The canonical word of a command, "the one the assembler of rule R84 emits": all unused bits zero (R75, R84). -/
def encode (i : Instr) : CmdWord :=
  match i with
  | .nop => cmdWord (opcode i) 0 0 0
  | .ldd sel a => cmdWord (opcode i) sel 0 a
  | .apply => cmdWord (opcode i) 0 0 0
  | .advance a => cmdWord (opcode i) 0 0 a
  | .sample => cmdWord (opcode i) 0 0 0
  | .snapshot => cmdWord (opcode i) 0 0 0
  | .gen a b => cmdWord (opcode i) 0 b a
  | .ldc sel a => cmdWord (opcode i) sel 0 a
  | .setcoef => cmdWord (opcode i) 0 0 0
  | .fctl a => cmdWord (opcode i) 0 0 a
  | .proc => cmdWord (opcode i) 0 0 0
  | .tick a => cmdWord (opcode i) 0 0 a

/-- The bits of a word that a command reads: the opcode and the fields its row of R72, R74 names; all others are
ignored (R75). -/
def usedBits : Instr → CmdWord
  | .nop => cmdWord 0xF 0 0 0
  | .ldd _ _ => cmdWord 0xF 0xF 0 0xFFFFFFFF
  | .apply => cmdWord 0xF 0 0 0
  | .advance _ => cmdWord 0xF 0 0 0xFFFFFFFF
  | .sample => cmdWord 0xF 0 0 0
  | .snapshot => cmdWord 0xF 0 0 0
  | .gen _ _ => cmdWord 0xF 0 0xFFFFFFFF 0xFFFFFFFF
  | .ldc _ _ => cmdWord 0xF 0xF 0 0xFFFFFFFF
  | .setcoef => cmdWord 0xF 0 0 0
  | .fctl _ => cmdWord 0xF 0 0 0xFFFFFFFF
  | .proc => cmdWord 0xF 0 0 0
  | .tick _ => cmdWord 0xF 0 0 0xFFFFFFFF

/-- A word of spec/opcode_table.json as a command word. Every command is one 72-bit word (R70) and nothing in the block
is byte-addressed (R55), so the table's bit numbers are the word's own. -/
def tableWord (nbits w : Nat) : CmdWord := BitVec.ofNat 72 (w % 2 ^ nbits)

/-- The instruction the decoder reads from a row's word of `nbits` bits; a row is at most 72 bits long (R82). -/
def decodeTableWord (nbits w : Nat) : Option Instr :=
  if nbits ≤ 72 then
    match decode (tableWord nbits w) with
    | .ok i => some i
    | .error _ => none
  else none

end Sys2Proof
end

