-- ==== Sys2Proof/Machine/Port.lean ====
section
/-! DEFINITION. What one edge of the clock does with the ports: 20_memory.md R53, 70_reset_and_hazards.md R210. -/

namespace Sys2Proof.Machine

/-- What the port inputs of one edge come to. -/
inductive Edge where
  /-- a word was accepted and spells the command `i`; `s` is the state it executes in -/
  | command (i : Instr) (s : State)
  /-- no command executes; the edge leaves the state `s` -/
  | settled (s : State)

/-- An edge with `rst = 1`: "every register takes its reset value", no command is accepted, `rsp_kind` is 0 (R210). The
host's inputs still to come are no register of the block. -/
def State.resetEdge (s : State) : State := { State.reset with pins := s.pins }

/-- An edge with no word presented: "Between commands it holds its state indefinitely" (60_exceptions.md R202), and there
is no response (R54). -/
def State.idleEdge (s : State) : State := s.respond .none

/-- A word is accepted "in which `cmd_valid = 1`, `cmd_ready = 1` and `rst = 0`" (R53). It is decoded (30_encoding.md R71), and
a word that spells no command is rejected (R80). -/
def acceptWord (w : CmdWord) (s : State) : Edge :=
  match decode w with
  | .ok i => .command i s
  | .error _ => .settled s.rejectWord

/-- The next edge: `rst` comes first, "whatever `cmd_valid` shows" (R210), then an accepted word, else nothing. With no
input left nothing is presented (log entry 1). -/
def nextEdge (s : State) : Edge :=
  match s.pins with
  | [] => .settled s.idleEdge
  | e :: rest =>
    let t : State := { s with pins := rest }
    if e.rst then .settled t.resetEdge
    else if e.valid then acceptWord e.cmd t
    else .settled t.idleEdge

/-- The host presents a word at the next edge (R53): it is the next word accepted. -/
def State.present (s : State) (w : CmdWord) : State := { s with pins := ⟨false, true, w⟩ :: s.pins }

end Sys2Proof.Machine
end

