-- ==== Sys2Proof/Machine/Step.lean ====
section
/-! DEFINITION. One step: "one step of the model is one accepted command word" (00_scope.md R7), or an edge that accepts none. -/

namespace Sys2Proof.Machine

/-- The next edge of the clock; an accepted command executes (60_exceptions.md R190: it always completes). -/
def step (s : State) : Host.Outcome State Fault Refusal :=
  match nextEdge s with
  | .command i t => exec i t
  | .settled t => .next t

/-- `s` with a word of spec/opcode_table.json presented, so that the next step accepts and runs it (log entry 1). -/
def State.withFetchWord (s : State) (nbits w : Nat) : State := s.present (tableWord nbits w)

end Sys2Proof.Machine
end

