-- ==== Sys2Proof/Machine/Assembler.lean ====
section
/-! DEFINITION. The assembler syntax of 30_encoding.md R84 and the pseudo-instructions of R85. It is notation for command
words; no step of the machine uses it. Text is a list of characters, so that the kernel can run it. -/

namespace Sys2Proof.Machine.Asm

/-- One command per line: a command, or a pseudo-instruction of R85. `SETP` names any subset of the five fields. -/
inductive Line where
  | command (i : Instr)
  | setp (freq volt phase cfreq pmode : Option Word)
  | setall (freq volt phase cfreq pmode : Word)
  | setfilt (b0 b1 b2 a1 a2 : Word)
  | fon
  | foff
deriving DecidableEq, Repr

/-- `LDD <field>, <v>` for a field that `SETP` names. -/
def lddIf (sel : BitVec 4) : Option Word → List Instr
  | some v => [.ldd sel v]
  | none => []

/-- The expansions of R85; a command stands for itself. -/
def Line.expand : Line → List Instr
  | .command i => [i]
  | .setp freq volt phase cfreq pmode =>
    lddIf 0 freq ++ lddIf 1 volt ++ lddIf 2 phase ++ lddIf 3 cfreq ++ lddIf 4 pmode ++ [.apply]
  | .setall freq volt phase cfreq pmode =>
    [.ldd 0 freq, .ldd 1 volt, .ldd 2 phase, .ldd 3 cfreq, .ldd 4 pmode, .apply]
  | .setfilt b0 b1 b2 a1 a2 => [.ldc 0 b0, .ldc 1 b1, .ldc 2 b2, .ldc 3 a1, .ldc 4 a2, .setcoef]
  | .fon => [.fctl 1]
  | .foff => [.fctl 0]

/-- The value of a digit of a numeral in `base` (10 or 16): its place in the row of the sixteen digits, letters in either
case (log entry 9). -/
def digit (base : Nat) (c : Char) : Option Nat :=
  ("0123456789abcdef".toList.take base).findIdx? fun d => d = c.toLower

/-- The number that at least one digit spells in `base`, the most significant first. -/
def digits (base : Nat) : List Char → Option Nat
  | [] => none
  | c :: cs => cs.foldl (fun n d => n.bind fun m => (digit base d).map fun k => m * base + k) (digit base c)

/-- A number "in decimal or `0x` hexadecimal" (R84). -/
def natural : List Char → Option Nat
  | '0' :: 'x' :: cs => digits 16 cs
  | cs => digits 10 cs

/-- The symbols for pulse-mode tags (R84). -/
def tagSymbol (cs : List Char) : Option Nat :=
  [("ASYNC", 0), ("P1", 1), ("P3", 2), ("P5", 3), ("P7", 4), ("P9", 5), ("P11", 6), ("P13", 7), ("P15", 8), ("P27", 9),
    ("P45", 10), ("CHM", 11)].findSome? (fun row => if row.1.toList = cs then some row.2 else none)

/-- A value operand: a tag symbol or a number, "taken modulo `2^32`; a leading `-` negates modulo `2^32`" (R84). -/
def value : List Char → Option Word
  | '-' :: cs => (natural cs).map fun n => u32 (-(n : Int))
  | cs => ((tagSymbol cs).orElse fun _ => natural cs).map fun n => u32 (n : Int)

/-- A selector operand: one of the five symbols given, in selector order, "or a number 0..15" (R84). -/
def selector (names : List String) (cs : List Char) : Option (BitVec 4) :=
  match names.findIdx? (fun n => n.toList = cs) with
  | some k => some (BitVec.ofNat 4 k)
  | none => match natural cs with
    | some n => if n < 16 then some (BitVec.ofNat 4 n) else none
    | none => none

/-- The field symbols of `LDD` (R84). -/
def fieldNames : List String := ["FREQ", "VOLT", "PHASE", "CFREQ", "PMODE"]

/-- The coefficient symbols of `LDC` (R84). -/
def coefNames : List String := ["B0", "B1", "B2", "A1", "A2"]

/-- A space or a tab. -/
def blank (c : Char) : Bool := c = ' ' || c = '\t'

/-- A text without the spaces around it. -/
def trim (cs : List Char) : List Char := ((cs.dropWhile blank).reverse.dropWhile blank).reverse

/-- The pieces of a text between separators. -/
def splitAt (sep : Char) : List Char → List (List Char)
  | [] => [[]]
  | c :: cs => if c = sep then [] :: splitAt sep cs else match splitAt sep cs with
    | [] => [[c]]
    | piece :: rest => (c :: piece) :: rest

/-- "operands separated by commas" (R84); none of them when there is no text. -/
def operands (cs : List Char) : List (List Char) :=
  if trim cs = [] then [] else (splitAt ',' cs).map trim

/-- The value that `SETP` gives a field, if its operands name it: `FIELD=value` (R85). -/
def setpField (name : String) (ops : List (List Char)) : Option Word :=
  ops.findSome? fun op => match splitAt '=' op with
    | [n, v] => if trim n = name.toList then value (trim v) else none
    | _ => none

/-- Whether an operand of `SETP` names one of the five fields and gives it a value. -/
def setpLegal (op : List Char) : Bool :=
  match splitAt '=' op with
  | [n, v] => (fieldNames.any fun name => name.toList = trim n) && (value (trim v)).isSome
  | _ => false

/-- A line from its mnemonic and operands (R84, R85). -/
def lineOf (mnemonic : List Char) (ops : List (List Char)) : Option Line :=
  if mnemonic = "SETP".toList then
    if ops.all setpLegal then
      some (.setp (setpField "FREQ" ops) (setpField "VOLT" ops) (setpField "PHASE" ops) (setpField "CFREQ" ops)
        (setpField "PMODE" ops))
    else none
  else match ops with
    | [] =>
      if mnemonic = "NOP".toList then some (.command .nop)
      else if mnemonic = "APPLY".toList then some (.command .apply)
      else if mnemonic = "SAMPLE".toList then some (.command .sample)
      else if mnemonic = "SNAPSHOT".toList then some (.command .snapshot)
      else if mnemonic = "SETCOEF".toList then some (.command .setcoef)
      else if mnemonic = "PROC".toList then some (.command .proc)
      else if mnemonic = "FON".toList then some .fon
      else if mnemonic = "FOFF".toList then some .foff
      else none
    | [x] =>
      if mnemonic = "ADVANCE".toList then (value x).map fun a => .command (.advance a)
      else if mnemonic = "FCTL".toList then (value x).map fun a => .command (.fctl a)
      else if mnemonic = "TICK".toList then (value x).map fun a => .command (.tick a)
      else none
    | [x, y] =>
      if mnemonic = "LDD".toList then
        (selector fieldNames x).bind fun sel => (value y).map fun a => .command (.ldd sel a)
      else if mnemonic = "LDC".toList then
        (selector coefNames x).bind fun sel => (value y).map fun a => .command (.ldc sel a)
      else if mnemonic = "GEN".toList then
        (value x).bind fun a => (value y).map fun b => .command (.gen a b)
      else none
    | [v, w, x, y, z] =>
      match value v, value w, value x, value y, value z with
      | some v, some w, some x, some y, some z =>
        if mnemonic = "SETALL".toList then some (.setall v w x y z)
        else if mnemonic = "SETFILT".toList then some (.setfilt v w x y z)
        else none
      | _, _, _, _, _ => none
    | _ => none

/-- The command words of one line of text: `;` starts a comment, a line without text is no command, and `none` is a line
that is not of the syntax (R84). The assembler "puts ... zero in every unused bit". -/
def assemble (text : List Char) : Option (List CmdWord) :=
  let body := trim (text.takeWhile (· ≠ ';'))
  if body = [] then some []
  else (lineOf (body.takeWhile (fun c => !blank c)) (operands (body.dropWhile (fun c => !blank c)))).map
    fun line => line.expand.map encode

end Sys2Proof.Machine.Asm
end

