-- ==== Sys2Proof/Machine/Formats.lean ====
section
/-! DEFINITION. The number formats of 00_scope.md R8 and R9 as rational numbers: what each word stands for, and the host's
conversion to it. "The conversions are the host's work, done at the configuration boundary; the block sees only the
integers": no step of the machine uses this file, and statements use it to speak of turns, Hz and seconds. -/

namespace Sys2Proof.Machine

/-- A phase word in turns: `θ = 2π · P / 2^32` is `P / 2^32` turns (R9). -/
def turns (p : Word) : ℚ := (p.toNat : ℚ) / 2 ^ 32

/-- A frequency register in Hz (R9). -/
def hertz (f : Word) : ℚ := (f.toNat : ℚ) / 2 ^ 16

/-- The voltage register as a modulation index (R9). -/
def modIndex (m : Word) : ℚ := (m.toNat : ℚ) / 2 ^ 16

/-- A `dt` operand in seconds, range `[-0.5, 0.5)` (R8, R9). -/
def seconds (a : Word) : ℚ := (s32 a : ℚ) / 2 ^ 32

/-- A filter sample, range `[-8, 8)` (R9, 42_biquad_filter.md R160). -/
def sampleValue (x : Word) : ℚ := (s32 x : ℚ) / 2 ^ 28

/-- A filter coefficient, range `[-2, 2)` (R9, R160). -/
def coefValue (c : Word) : ℚ := (s32 c : ℚ) / 2 ^ 30

/-- The phase word of an angle in turns, `floor(θ / 2π · 2^32)`, normalized by the wrap (R9). -/
def wordOfTurns (t : ℚ) : Word := u32 ⌊t * 2 ^ 32⌋

/-- The register value of a frequency in Hz, `round(f · 2^16)` (R9; the rounding of a tie is log entry 6). -/
def wordOfHertz (f : ℚ) : Word := u32 (round (f * 2 ^ 16))

/-- The register value of a modulation index, `round(m · 2^16)` (R9; log entry 6). -/
def wordOfModIndex (m : ℚ) : Word := u32 (round (m * 2 ^ 16))

/-- The operand of a time step in seconds, `round(dt · 2^32)` (R9; log entry 6). -/
def wordOfSeconds (t : ℚ) : Word := u32 (round (t * 2 ^ 32))

/-- The word of a filter sample, `round(y · 2^28)` (R9; log entry 6). -/
def wordOfSample (y : ℚ) : Word := u32 (round (y * 2 ^ 28))

/-- The word of a coefficient, `round(c · 2^30)` (R9; log entry 6). -/
def wordOfCoef (c : ℚ) : Word := u32 (round (c * 2 ^ 30))

/-- The ideal triangle of 41_pwm_generator.md R137 over turns: `-1 + 2θ/π` rising on the first half turn, `3 - 2θ/π`
falling on the second. -/
def idealTriangle (t : ℚ) : ℚ := if t < 1 / 2 then 4 * t - 1 else 3 - 4 * t

end Sys2Proof.Machine
end

