-- ==== Sys2Proof/Safety.lean ====
section
/-! DEFINITION. What statements about the machine are said with: the access table of 10_state.md R36, illegal words,
sequences of commands, and the invariants of a run. -/

namespace Sys2Proof.Machine

/-- A word is illegal "when `op` is `0xC`, `0xD`, `0xE` or `0xF`, or when `op` is `0x1` (`LDD`) or `0x7` (`LDC`) and `sel`
is 5 to 15" (30_encoding.md R80). -/
def IllegalWord (w : CmdWord) : Prop :=
  0xC ≤ (opField w).toNat ∨ (((opField w).toNat = 0x1 ∨ (opField w).toNat = 0x7) ∧ 5 ≤ (selField w).toNat)

/-- A safe step: the machine goes on. Every step is safe (60_exceptions.md R190). -/
def SafeStep (s : State) : Prop := ∃ t, step s = .next t

/-- A sequence of commands, each executed in the state the one before it left (20_memory.md R60). -/
def execAll : List Instr → State → Host.Outcome State Fault Refusal
  | [], s => .next s
  | i :: is, s =>
    match exec i s with
    | .next t => execAll is t
    | .fault r => .fault r
    | .refused r => .refused r

/-- The effect of one presented word: its command, or for an illegal word the flag (20_memory.md R60, 30_encoding.md R80). -/
def execWord (w : CmdWord) (s : State) : Host.Outcome State Fault Refusal :=
  match decode w with
  | .ok i => exec i s
  | .error _ => .next { s with ill := true, rsp := .none }

/-- A sequence of presented words (20_memory.md R60). -/
def execWords : List CmdWord → State → Host.Outcome State Fault Refusal
  | [], s => .next s
  | w :: ws, s =>
    match execWord w s with
    | .next t => execWords ws t
    | .fault r => .fault r
    | .refused r => .refused r

/-- A word at the command port with `rst` low. -/
def PortIn.word (w : CmdWord) : PortIn := ⟨false, true, w⟩

/-- The registers of 10_state.md R20, one by one; `DMASK` bit by bit. -/
inductive Reg where
  | p (f : ParamSel)
  | d (f : ParamSel)
  | dmask (f : ParamSel)
  | th
  | ct
  | c (f : CoefSel)
  | dc (f : CoefSel)
  | h (k : LegName)
  | fen
  | ill
  | sat
deriving DecidableEq, Repr

/-- Two states hold the same in a register. -/
def SameReg (s t : State) : Reg → Prop
  | .p f => s.p.get f = t.p.get f
  | .d f => s.d.get f = t.d.get f
  | .dmask f => s.dmask.getLsbD f.index = t.dmask.getLsbD f.index
  | .th => s.th = t.th
  | .ct => s.ct = t.ct
  | .c f => s.c.get f = t.c.get f
  | .dc f => s.dc.get f = t.dc.get f
  | .h k => s.h.get k = t.h.get k
  | .fen => s.fen = t.fen
  | .ill => s.ill = t.ill
  | .sat => s.sat = t.sat

/-- The five parameter registers in selector order. -/
def allParams : List ParamSel := [.freq, .volt, .phase, .cfreq, .pmode]

/-- The five coefficient registers in selector order. -/
def allCoefs : List CoefSel := [.b0, .b1, .b2, .a1, .a2]

/-- The three legs. -/
def allLegs : List LegName := [.u, .v, .w]

/-- The registers a command may write, by the `w` entries of R36; `H` and `SAT` only when `fen`, the value of `FEN`, is 1. -/
def mayWrite (fen : Bool) : Instr → List Reg
  | .nop => []
  | .ldd sel _ => match paramSel sel with
    | some f => [.d f, .dmask f]
    | none => [.ill]
  | .apply => allParams.map .p ++ allParams.map .dmask
  | .advance _ => [.th, .ct]
  | .sample => []
  | .snapshot => []
  | .gen _ _ => []
  | .ldc sel _ => match coefSel sel with
    | some f => [.dc f]
    | none => [.ill]
  | .setcoef => allCoefs.map .c
  | .fctl _ => [.fen]
  | .proc => if fen then allLegs.map .h ++ [.sat] else []
  | .tick _ => [.th, .ct] ++ if fen then allLegs.map .h ++ [.sat] else []

/-- The registers a command reads, by the `r` entries of R36; `C` and `H` only when `fen` is 1 (42_biquad_filter.md R170). -/
def mayRead (fen : Bool) : Instr → List Reg
  | .nop => []
  | .ldd _ _ => []
  | .apply => allParams.map .d ++ allParams.map .dmask
  | .advance _ => [.p .freq, .p .cfreq, .th, .ct]
  | .sample => [.p .volt, .p .pmode, .th, .ct]
  | .snapshot => allParams.map .p ++ [.th, .ct]
  | .gen _ _ => [.p .volt, .p .pmode]
  | .ldc _ _ => []
  | .setcoef => allCoefs.map .dc
  | .fctl _ => []
  | .proc => [.p .volt, .p .pmode, .th, .ct, .fen] ++ if fen then allCoefs.map .c ++ allLegs.map .h else []
  | .tick _ =>
    [.p .volt, .p .pmode, .p .freq, .p .cfreq, .th, .ct, .fen] ++ if fen then allCoefs.map .c ++ allLegs.map .h else []

/-- `rsp_kind` of a command's response (30_encoding.md R78). -/
def responseKind : Instr → BitVec 2
  | .nop => 0
  | .ldd _ _ => 0
  | .apply => 0
  | .advance _ => 0
  | .sample => 1
  | .snapshot => 3
  | .gen _ _ => 1
  | .ldc _ _ => 0
  | .setcoef => 0
  | .fctl _ => 0
  | .proc => 2
  | .tick _ => 2

/-- A field of `P` whose mask bit is clear equals its staging register: what was staged has been applied
(10_state.md R23, 40_phase_accumulator.md R103). -/
def StagedAgrees (s : State) : Prop :=
  ∀ f : ParamSel, s.dmask.getLsbD f.index = false → s.p.get f = s.d.get f

/-- A filter input: `+2^28` or `-2^28`, "the only input a filter ever receives" (42_biquad_filter.md R169). -/
def LegInput (x : Word) : Prop := x = 0x10000000 ∨ x = 0xF0000000

/-- A history that holds nothing but comparator values: none yet, one, or two of them. -/
def Hist.FromComparator (h : Hist) : Prop :=
  h = Hist.zero ∨ (LegInput h.x1 ∧ ((h.x2 = 0 ∧ h.y2 = 0) ∨ LegInput h.x2))

/-- Every leg's history holds nothing but comparator values, and the three filters have run equally often. -/
def HistoriesFromComparator (b : Bank) : Prop :=
  (∀ k : LegName, (b.get k).FromComparator) ∧
  (∀ k l : LegName, ((b.get k).x1 = 0 ↔ (b.get l).x1 = 0) ∧ ((b.get k).x2 = 0 ↔ (b.get l).x2 = 0))

/-- The invariant of a run: nothing applied is lost, and the filters have seen comparator values only. -/
structure Inv (s : State) : Prop where
  staged : StagedAgrees s
  histories : HistoriesFromComparator s.h

/-- The commands of which R59 of 20_memory.md says that repeating one changes nothing: those that change no state, those
that load or commit, and `NOP`. -/
def Repeatable : Instr → Prop
  | .nop => True
  | .ldd _ _ => True
  | .apply => True
  | .advance _ => False
  | .sample => True
  | .snapshot => True
  | .gen _ _ => True
  | .ldc _ _ => True
  | .setcoef => True
  | .fctl _ => True
  | .proc => False
  | .tick _ => False

/-- A state with the `phase` parameter blotted out, in the active file and in the staging file. -/
def State.blotPhase (s : State) : State := { s with p := { s.p with phase := 0 }, d := { s.d with phase := 0 } }

/-- The filtered or bypassed value of a leg in a `FILT` response (30_encoding.md R78). -/
def Response.legOutput (r : Response) (k : LegName) : Option Word :=
  match r with
  | .filt _ _ _ _ yu yv yw => match k with
    | .u => some yu
    | .v => some yv
    | .w => some yw
  | _ => Option.none

/-- The value of one leg in a comparator result. -/
def PwmOut.leg (o : PwmOut) : LegName → Leg
  | .u => o.u
  | .v => o.v
  | .w => o.w

/-- The phase words at which leg U changes in a mode that does not read `ct`: the value at `th` differs from the value one
unit before, around the whole turn (41_pwm_generator.md R144). -/
def ChangesAt (pmode volt : Word) (th : Word) : Prop :=
  (generate th 0 volt pmode).u ≠ (generate (th - 1) 0 volt pmode).u

/-- The history of a filter after `n` samples of the constant input `x` from zero history. -/
def constantInput (c : Coefs) (x : Int) : Nat → Hist
  | 0 => Hist.zero
  | n + 1 => (process c (constantInput c x n) x).hist

/-- The output for sample `n` of the constant input `x`. -/
def stepOutput (c : Coefs) (x : Int) (n : Nat) : FilterOut := process c (constantInput c x n) x

/-- The coefficients of the worked example of 42_biquad_filter.md R163: 2000 Hz at 48000 samples per second, `Q` = 0.707. -/
def exampleLowPass : Coefs := ⟨0x00EBF29C, 0x01D7E537, 0x00EBF29C, 0x977DAA47, 0x2C322027⟩

end Sys2Proof.Machine
end

