-- ==== Sys2Proof/Certificates/Slice0/Obligations.lean ====
section
/-! DEFINITION. The statements for the provers. Each docstring names the rule of spec/ that it formalises. -/

open Sys2Proof Sys2Proof.Machine

/-! ## Reset, the ports, the step -/

/-- 10_state.md R34: after reset every register of R20 is zero. -/
def Obligations.ResetZeroesEveryRegister : Prop :=
  let s := State.reset
  (∀ f, s.p.get f = 0) ∧ (∀ f, s.d.get f = 0) ∧ s.dmask = 0 ∧ s.th = 0 ∧ s.ct = 0 ∧ (∀ f, s.c.get f = 0) ∧
  (∀ f, s.dc.get f = 0) ∧
  (∀ k, (s.h.get k).x1 = 0 ∧ (s.h.get k).x2 = 0 ∧ (s.h.get k).y1 = 0 ∧ (s.h.get k).y2 = 0) ∧
  s.fen = false ∧ s.ill = false ∧ s.sat = false

/-- 70_reset_and_hazards.md R211: what the commands do straight after reset. -/
def Obligations.FirstCommandsAfterReset : Prop :=
  let s := State.reset
  exec .sample s = .next { s with rsp := .pwm 1 1 1 0 } ∧
  exec .proc s = .next { s with rsp := .filt 1 1 1 0 0x10000000 0x10000000 0x10000000 } ∧
  (∃ t, execAll [.fctl 1, .proc] s = .next t ∧ t.rsp = .filt 1 1 1 0 0 0 0 ∧
    ∀ k, t.h.get k = ⟨0x10000000, 0, 0, 0⟩) ∧
  (∀ a, exec (.advance a) s = .next { s with rsp := .none }) ∧
  exec .snapshot s = .next { s with rsp := .snap 0 0 0 0 0 0 0 }

/-- 70_reset_and_hazards.md R210: at an edge with `rst = 1`, in any state and whatever `cmd_valid` and `cmd` show, every
register takes its reset value, no command is accepted and `rsp_kind` is 0. (`pins` is the model's own field, log entry 1:
the edge takes its own input off the list and leaves the rest.) -/
def Obligations.ResetEdgeRestoresResetState : Prop :=
  ∀ (s : State) (valid : Bool) (w : CmdWord) (rest : List PortIn), s.pins = ⟨true, valid, w⟩ :: rest →
    step s = .next { State.reset with pins := rest } ∧ State.reset.rsp.kind = 0

/-- 60_exceptions.md R202: with nothing presented (no input left, or an edge with `cmd_valid = 0` and `rst = 0`) the block
holds its state, and there is no response. (That an empty list of inputs means nothing presented is log entry 1.) -/
def Obligations.IdleEdgeHoldsState : Prop :=
  ∀ s : State,
    (s.pins = [] → step s = .next { s with rsp := .none }) ∧
    (∀ w rest, s.pins = ⟨false, false, w⟩ :: rest → step s = .next { s with pins := rest, rsp := .none })

/-- 00_scope.md R7, 20_memory.md R53: a step with a word at the port that decodes to `i` takes that word off the inputs and
is `exec i`. (The list of inputs is the model's own, log entry 1.) -/
def Obligations.StepExecutesDecodedCommand : Prop :=
  ∀ (s : State) (w : CmdWord) (rest : List PortIn) (i : Instr), s.pins = PortIn.word w :: rest → decode w = .ok i →
    step s = exec i { s with pins := rest }

/-- 30_encoding.md R80: an illegal word sets `ILL`, changes no other state, produces no response, and the block goes on.
(The list of inputs is the model's own, log entry 1.) -/
def Obligations.IllegalWordSetsIllOnly : Prop :=
  ∀ (s : State) (w : CmdWord) (rest : List PortIn), s.pins = PortIn.word w :: rest → IllegalWord w →
    step s = .next { s with pins := rest, ill := true, rsp := .none }

/-- 60_exceptions.md R190: in every state every step goes on, and every command completes. -/
def Obligations.EveryStepCompletes : Prop :=
  ∀ s : State, SafeStep s ∧ ∀ i : Instr, ∃ t, exec i s = .next t

/-- A word of spec/opcode_table.json, presented, is the next command, at the state as it was (20_memory.md R53; the list of
inputs is the model's own, log entry 1). -/
def Obligations.PresentedTableWordRuns : Prop :=
  ∀ (s : State) (w : Nat) (i : Instr), decodeTableWord 72 w = some i → step (s.withFetchWord 72 w) = exec i s

/-- 20_memory.md R60: the state after words `c1 ... cn` is the state obtained by applying their rules one after another.
(The list of inputs is the model's own, log entry 1.) -/
def Obligations.WordsExecuteInOrder : Prop :=
  ∀ (ws : List CmdWord) (s : State) (rest : List PortIn), s.pins = ws.map PortIn.word ++ rest →
    Host.Core.run core ws.length s = execWords ws { s with pins := rest }

/-- 20_memory.md R54, 10_state.md R33: no step depends on the response outputs of the step before. (That the
state keeps them at all is the model's own, log entry 2.) -/
def Obligations.ResponseOutputsAreNeverRead : Prop :=
  ∀ (s : State) (r : Response), step { s with rsp := r } = step s

/-- 20_memory.md R56: `status[1:0]` is `{SAT, ILL}`. -/
def Obligations.StatusIsSatIll : Prop :=
  ∀ s : State, s.status.getLsbD 0 = s.ill ∧ s.status.getLsbD 1 = s.sat

/-! ## Encoding -/

/-- 30_encoding.md R86 and 95_test_vectors.md section 2.1: words of the spec decode as it says. -/
def Obligations.WorkedWordsDecode : Prop :=
  decode 0x000000000000000000 = .ok .nop ∧
  decode 0x100000000000320000 = .ok (.ldd 0 0x00320000) ∧
  decode 0x14FFFFFFFF00000002 = .ok (.ldd 4 2) ∧
  decode 0x2A1234567889ABCDEF = .ok .apply ∧
  decode 0x3000000000FFFEA27A = .ok (.advance 0xFFFEA27A) ∧
  decode 0x400000000000000000 = .ok .sample ∧
  decode 0x500000000000000000 = .ok .snapshot ∧
  decode 0x607FFFFFFF40000000 = .ok (.gen 0x40000000 0x7FFFFFFF) ∧
  decode 0x7300000000977DAA47 = .ok (.ldc 3 0x977DAA47) ∧
  decode 0x800000000000000000 = .ok .setcoef ∧
  decode 0x900000000080000000 = .ok (.fctl 0x80000000) ∧
  decode 0xA00000000000000000 = .ok .proc ∧
  decode 0xB00000000000015D86 = .ok (.tick 0x00015D86) ∧
  decode 0x150000000000000000 = .error (.reservedSelector 1 5) ∧
  decode 0x750000000000000001 = .error (.reservedSelector 7 5) ∧
  decode 0xC00000000000000000 = .error (.reservedOpcode 0xC) ∧
  decode 0xFFFFFFFFFFFFFFFFFF = .error (.reservedOpcode 0xF)

/-- Every legal command, with every operand at every value, is what the decoder reads from its canonical word
(30_encoding.md R70, R76, R84). -/
def Obligations.DecodeOfEncode : Prop :=
  ∀ i : Instr, wellFormed i = true → decode (encode i) = .ok i

/-- 30_encoding.md R71, R75: the words that decode to `i` are exactly those that agree with `i`'s canonical word on the bits
`i` uses; all other bits are ignored. -/
def Obligations.DecodeReadsExactlyUsedBits : Prop :=
  ∀ (w : CmdWord) (i : Instr), decode w = .ok i ↔ wellFormed i = true ∧ w &&& usedBits i = encode i

/-- 30_encoding.md R71, R80: every word decodes to a legal command or is illegal, and the reason is the one R80 names. -/
def Obligations.DecoderRejectsExactlyIllegalWords : Prop :=
  ∀ w : CmdWord,
    ((∃ e, decode w = .error e) ↔ IllegalWord w) ∧
    (∀ e, decode w = .error e →
      (e = .reservedOpcode (opField w) ∧ 0xC ≤ (opField w).toNat) ∨
      (e = .reservedSelector (opField w) (selField w) ∧ (opField w = 0x1 ∨ opField w = 0x7) ∧ 5 ≤ (selField w).toNat)) ∧
    (∀ i, decode w = .ok i → wellFormed i = true)

/-! ## The PhaseAccumulator commands -/

/-- 40_phase_accumulator.md R100. -/
def Obligations.NopChangesNothing : Prop :=
  (∀ w : CmdWord, opField w = 0x0 → decode w = .ok .nop) ∧
  ∀ s : State, exec .nop s = .next { s with rsp := .none }

/-- 40_phase_accumulator.md R102, selector by selector: selectors 0 to 4 write one `D` register and one bit of `DMASK`,
selectors 5 to 15 set `ILL`; nothing else changes. -/
def Obligations.LddLoadsOneFieldOrFlagsIll : Prop :=
  (∀ w : CmdWord, opField w = 0x1 →
    ((selField w).toNat ≤ 4 → decode w = .ok (.ldd (selField w) (aField w))) ∧
    (5 ≤ (selField w).toNat → IllegalWord w)) ∧
  ∀ (s : State) (a : Word),
    exec (.ldd 0 a) s = .next { s with d := { s.d with freq := a }, dmask := s.dmask ||| 0b00001, rsp := .none } ∧
    exec (.ldd 1 a) s = .next { s with d := { s.d with volt := a }, dmask := s.dmask ||| 0b00010, rsp := .none } ∧
    exec (.ldd 2 a) s = .next { s with d := { s.d with phase := a }, dmask := s.dmask ||| 0b00100, rsp := .none } ∧
    exec (.ldd 3 a) s = .next { s with d := { s.d with cfreq := a }, dmask := s.dmask ||| 0b01000, rsp := .none } ∧
    exec (.ldd 4 a) s = .next { s with d := { s.d with pmode := a }, dmask := s.dmask ||| 0b10000, rsp := .none } ∧
    ∀ sel : BitVec 4, 5 ≤ sel.toNat → exec (.ldd sel a) s = .next { s with ill := true, rsp := .none }

/-- 40_phase_accumulator.md R103: the fields present in the push replace those of `P`, the others keep their value, `DMASK`
is cleared, nothing else changes. -/
def Obligations.ApplyMergesPresentFields : Prop :=
  (∀ w : CmdWord, opField w = 0x2 → decode w = .ok .apply) ∧
  ∀ s : State, exec .apply s = .next
    { s with
      p := { freq := if s.dmask.getLsbD 0 then s.d.freq else s.p.freq
             volt := if s.dmask.getLsbD 1 then s.d.volt else s.p.volt
             phase := if s.dmask.getLsbD 2 then s.d.phase else s.p.phase
             cfreq := if s.dmask.getLsbD 3 then s.d.cfreq else s.p.cfreq
             pmode := if s.dmask.getLsbD 4 then s.d.pmode else s.p.pmode }
      dmask := 0
      rsp := .none }

/-- 40_phase_accumulator.md R105: both phases move by the floor of `P.f · dt / 2^16`, `dt` signed, modulo `2^32`; nothing
else changes. -/
def Obligations.AdvanceIntegratesBothPhases : Prop :=
  (∀ w : CmdWord, opField w = 0x3 → decode w = .ok (.advance (aField w))) ∧
  ∀ (s : State) (a : Word), ∃ th' ct' : Word,
    exec (.advance a) s = .next { s with th := th', ct := ct', rsp := .none } ∧
    (th'.toNat : Int) = (s.th.toNat + ⌊(s.p.freq.toNat : ℚ) * a.toInt / 2 ^ 16⌋) % 2 ^ 32 ∧
    (ct'.toNat : Int) = (s.ct.toNat + ⌊(s.p.cfreq.toNat : ℚ) * a.toInt / 2 ^ 16⌋) % 2 ^ 32

/-- 40_phase_accumulator.md R108, 30_encoding.md R79: `SAMPLE` responds with the comparator output for `TH`, `CT`, bit 1 for
`+1` and bit 0 for `-1`, and writes no state. -/
def Obligations.SampleRespondsComparatorOutput : Prop :=
  (∀ w : CmdWord, opField w = 0x4 → decode w = .ok .sample) ∧
  ∀ s : State,
    let o := generate s.th s.ct s.p.volt s.p.pmode
    let bit : Leg → BitVec 1 := fun l => if l = .pos then 1 else 0
    exec .sample s = .next { s with rsp := .pwm (bit o.u) (bit o.v) (bit o.w) s.th }

/-- 40_phase_accumulator.md R110: `SNAPSHOT` responds with a copy of `P.*`, `TH`, `CT` and writes no state. -/
def Obligations.SnapshotCopiesParametersAndPhases : Prop :=
  (∀ w : CmdWord, opField w = 0x5 → decode w = .ok .snapshot) ∧
  ∀ s : State, exec .snapshot s =
    .next { s with rsp := .snap s.p.freq s.p.volt s.p.phase s.p.cfreq s.p.pmode s.th s.ct }

/-- 00_scope.md R9, 40_phase_accumulator.md R105, R107: in turns, Hz and seconds, `ADVANCE` moves `TH` by `freq · dt` up to a
whole number of turns and less than one phase unit, downward; and `CT` by `carrierFreq · dt` likewise. -/
def Obligations.AdvanceIsFrequencyTimesTime : Prop :=
  ∀ (s : State) (a : Word), ∃ t : State, exec (.advance a) s = .next t ∧
    (∃ n : Int, 0 ≤ turns s.th + hertz s.p.freq * seconds a - turns t.th - n ∧
      turns s.th + hertz s.p.freq * seconds a - turns t.th - n < 1 / 2 ^ 32) ∧
    (∃ n : Int, 0 ≤ turns s.ct + hertz s.p.cfreq * seconds a - turns t.ct - n ∧
      turns s.ct + hertz s.p.cfreq * seconds a - turns t.ct - n < 1 / 2 ^ 32)

/-- 40_phase_accumulator.md R107: `N` steps whose signed operands sum to a legal operand `A` leave a phase at most `N - 1`
units behind one step of `A`, and at the same phase when the frequency is a whole number of Hz. -/
def Obligations.SplitAdvanceStaysWithinStepCount : Prop :=
  ∀ (s t t' : State) (as : List Word) (A : Word), as ≠ [] → (as.map BitVec.toInt).sum = A.toInt →
    execAll (as.map Instr.advance) s = .next t → exec (.advance A) s = .next t' →
    (∃ e : Nat, e ≤ as.length - 1 ∧ t'.th = t.th + BitVec.ofNat 32 e ∧ (s.p.freq.toNat % 2 ^ 16 = 0 → e = 0)) ∧
    (∃ e : Nat, e ≤ as.length - 1 ∧ t'.ct = t.ct + BitVec.ofNat 32 e ∧ (s.p.cfreq.toNat % 2 ^ 16 = 0 → e = 0))

/-- 40_phase_accumulator.md R106(d): with both frequencies a whole number of Hz, a step of `-dt` undoes a step of `dt`. -/
def Obligations.WholeHertzAdvanceIsUndone : Prop :=
  ∀ (s : State) (a : Word), s.p.freq.toNat % 2 ^ 16 = 0 → s.p.cfreq.toNat % 2 ^ 16 = 0 →
    execAll [.advance a, .advance (-a)] s = .next { s with rsp := .none }

/-- 70_reset_and_hazards.md R212: with 1 Hz on one phase and 0 on the other, `ADVANCE a` adds exactly `a` to the one and
leaves the other, so any pair of angles can be reached. -/
def Obligations.OneHertzAdvanceAddsOperand : Prop :=
  ∀ (s : State) (a : Word),
    (s.p.freq = 0x00010000 → s.p.cfreq = 0 → exec (.advance a) s = .next { s with th := s.th + a, rsp := .none }) ∧
    (s.p.freq = 0 → s.p.cfreq = 0x00010000 → exec (.advance a) s = .next { s with ct := s.ct + a, rsp := .none })

/-! ## The comparator and GEN -/

/-- 41_pwm_generator.md R145, 30_encoding.md R79: `GEN` evaluates the comparator on its operands, responds bit 1 for a leg
`+1` and bit 0 for a leg `-1`, and writes no state; with `TH`, `CT` as its
operands it responds exactly as `SAMPLE`; in a synchronous mode `b` has no effect. -/
def Obligations.GenRespondsComparatorOutput : Prop :=
  (∀ w : CmdWord, opField w = 0x6 → decode w = .ok (.gen (aField w) (bField w))) ∧
  ∀ s : State,
    (∀ a b : Word,
      let o := generate a b s.p.volt s.p.pmode
      let bit : Leg → BitVec 1 := fun l => if l = .pos then 1 else 0
      exec (.gen a b) s = .next { s with rsp := .pwm (bit o.u) (bit o.v) (bit o.w) a }) ∧
    exec (.gen s.th s.ct) s = exec .sample s ∧
    (decodePmode s.p.pmode ≠ .async → ∀ a b b' : Word, exec (.gen a b) s = exec (.gen a b') s)

/-- 41_pwm_generator.md R130: leg U at `th`, V at `th - K120`, W at `th + K120` (32-bit wrap), each compared independently,
and the angle itself. -/
def Obligations.GenerateComparesThreeShiftedAngles : Prop :=
  ∀ th ct volt pmode : Word,
    let o := generate th ct volt pmode
    o.u = comparePhase th ct volt pmode ∧
    o.v = comparePhase (th - 0x55555555#32) ct volt pmode ∧
    o.w = comparePhase (th + 0x55555555#32) ct volt pmode ∧
    o.th = th

/-- 41_pwm_generator.md R135, R141: with tag 0 a leg is `+1` exactly when `volt · SIN(phi)` exceeds `TRI(ct)`, strictly. -/
def Obligations.AsyncLegComparesWithFreeCarrier : Prop :=
  ∀ phi ct volt : Word, comparePhase phi ct volt 0 = .pos ↔ (volt.toNat : Int) * sin phi > tri ct

/-- 41_pwm_generator.md R134, R136: with tags 2 to 10 the carrier is the leg's own angle times 3, 5, 7, 9, 11, 13, 15, 27, 45
(32-bit wrap), whatever `ct` is. -/
def Obligations.SyncLegComparesWithLockedCarrier : Prop :=
  ∀ phi ct volt : Word,
    ∀ row ∈ [((2 : Word), (3 : Word)), (3, 5), (4, 7), (5, 9), (6, 11), (7, 13), (8, 15), (9, 27), (10, 45)],
      comparePhase phi ct volt row.1 = .pos ↔ (volt.toNat : Int) * sin phi > tri (phi * row.2)

/-- 41_pwm_generator.md R134, R142: with tag 1 and with every tag from 11 up a leg is `+1` exactly when bit 31 of its angle
is 0, whatever `ct` and `volt` are. -/
def Obligations.SquareWaveLegIsTopBit : Prop :=
  ∀ phi ct volt pmode : Word, pmode.toNat = 1 ∨ 11 ≤ pmode.toNat →
    (comparePhase phi ct volt pmode = .pos ↔ phi.toNat < 2 ^ 31) ∧
    (comparePhase phi ct volt pmode = .pos ↔ phi.getLsbD 31 = false)

/-- 41_pwm_generator.md R136: for `N` a multiple of 3 the locked carriers of V and W differ from that of U by `N/3` units, up
and down. -/
def Obligations.LockedCarriersDifferByThirdOfN : Prop :=
  ∀ (th : Word) (k : Nat),
    lockedCarrier (th - Config.K120) (3 * k) = lockedCarrier th (3 * k) + BitVec.ofNat 32 k ∧
    lockedCarrier (th + Config.K120) (3 * k) = lockedCarrier th (3 * k) - BitVec.ofNat 32 k

/-- 41_pwm_generator.md R137: `TRI` is the ideal triangle scaled by `2^46`, exactly, with the values the rule lists. -/
def Obligations.TriangleIsIdealScaled : Prop :=
  (∀ c : Word, (tri c : ℚ) = 2 ^ 46 * idealTriangle (turns c)) ∧
  tri 0x00000000 = -2 ^ 46 ∧ tri 0x40000000 = 0 ∧ tri 0x7FFFFFFF = 2 ^ 46 - 2 ^ 16 ∧ tri 0x80000000 = 2 ^ 46 ∧
  tri 0xC0000000 = 0 ∧ tri 0xFFFFFFFF = -2 ^ 46 + 2 ^ 16

/-- 41_pwm_generator.md R138, R139: the table is the first quarter of the sine at 256 equal steps, each entry `2^30` times the
true sine rounded to the nearest integer, with the check values of R138; `qsin` continues it over the four quarters; `SIN`
takes interval `p[31:22]` and position `p[21:0]` and interpolates with the exact rational floor; the result lies in
`[-2^30, 2^30]` and misses the true sine by less than `5.1e-6 · 2^30`. -/
def Obligations.SineInterpolatesRoundedSine : Prop :=
  (sineTable.length = 257 ∧ sineTable.sum = 175529032425 ∧
    sineEntry 0 = 0 ∧ sineEntry 1 = 6588356 ∧ sineEntry 128 = 759250125 ∧ sineEntry 256 = 1073741824) ∧
  (∀ k : Nat, k ≤ 256 → sineEntry k = round (2 ^ 30 * Real.sin (2 * Real.pi * k / 1024))) ∧
  (∀ k : Nat, k ≤ 256 → qsin k = sineEntry k ∧ qsin (256 + k) = sineEntry (256 - k) ∧ qsin (512 + k) = -sineEntry k ∧
    qsin (768 + k) = -sineEntry (256 - k)) ∧
  ∀ p : Word,
    let i : Nat := (p.extractLsb' 22 10).toNat
    let f : Nat := (p.extractLsb' 0 22).toNat
    sin p = qsin i + ⌊((qsin (i + 1) - qsin i : Int) : ℚ) * f / 2 ^ 22⌋ ∧
    (-2 ^ 30 ≤ sin p ∧ sin p ≤ 2 ^ 30) ∧
    |(sin p : ℝ) - 2 ^ 30 * Real.sin (2 * Real.pi * p.toNat / 2 ^ 32)| < 51 / 10 ^ 7 * 2 ^ 30

/-- 41_pwm_generator.md R140: (a) the exact points of `SIN`; (b) its bound; (c) its sign and its two zeros; (d) the odd
symmetry to within one unit, with the rule's examples; (e) within one table interval it is monotone. -/
def Obligations.SineHasStatedProperties : Prop :=
  (sin 0x00000000 = 0 ∧ sin 0x40000000 = 2 ^ 30 ∧ sin 0x80000000 = 0 ∧ sin 0xC0000000 = -2 ^ 30) ∧
  (∀ p : Word, -2 ^ 30 ≤ sin p ∧ sin p ≤ 2 ^ 30) ∧
  (∀ p : Word, (p.toNat ≤ 2 ^ 31 → 0 ≤ sin p) ∧ (2 ^ 31 ≤ p.toNat → sin p ≤ 0) ∧
    (sin p = 0 ↔ p = 0 ∨ p = 0x80000000)) ∧
  ((∀ p : Word, sin (-p) = -sin p ∨ sin (-p) = -sin p - 1) ∧
    sin 0x55555555 = 929883808 ∧ sin 0xAAAAAAAB = -929883809 ∧ sin 0x00000001 = 1 ∧ sin 0xFFFFFFFF = -2) ∧
  (∀ p q : Word, sineInterval p = sineInterval q → sinePosition p ≤ sinePosition q →
    (qsin (sineInterval p) ≤ qsin (sineInterval p + 1) → sin p ≤ sin q) ∧
    (qsin (sineInterval p + 1) ≤ qsin (sineInterval p) → sin q ≤ sin p))

/-- 41_pwm_generator.md R144(d): one unit of the angle moves `SIN` by at most 2, around the whole turn. -/
def Obligations.SineMovesAtMostTwoPerUnit : Prop :=
  ∀ p : Word, -2 ≤ sin (p + 1) - sin p ∧ sin (p + 1) - sin p ≤ 2

/-- 41_pwm_generator.md R144(a): asynchronous mode at voltage 0: a leg is `+1` exactly for carriers below `2^30` or above
`3 · 2^30`, whatever its angle, and over one carrier turn it changes at exactly two carrier words. -/
def Obligations.AsyncZeroVoltageIsHalfDuty : Prop :=
  ∀ phi ct : Word,
    (comparePhase phi ct 0 0 = .pos ↔ ct.toNat < 2 ^ 30 ∨ 3 * 2 ^ 30 < ct.toNat) ∧
    (comparePhase phi ct 0 0 ≠ comparePhase phi (ct - 1) 0 0 ↔ ct = 0x40000000 ∨ ct = 0xC0000001)

/-- 41_pwm_generator.md R144(d): in a synchronous mode with `N ≥ 3` and a voltage below `N/2`, while the locked carrier rises
a leg goes at most from `+1` to `-1`, and while it falls at most from `-1` to `+1`. -/
def Obligations.SyncLegChangesOneWayPerHalf : Prop :=
  ∀ (phi ct volt pmode : Word) (n : Nat), decodePmode pmode = .sync n → 3 ≤ n → volt.toNat < n * 2 ^ 15 →
    ((lockedCarrier phi n).toNat + n < 2 ^ 31 →
      comparePhase phi ct volt pmode = .neg → comparePhase (phi + 1) ct volt pmode = .neg) ∧
    (2 ^ 31 ≤ (lockedCarrier phi n).toNat → (lockedCarrier phi n).toNat + n < 2 ^ 32 →
      comparePhase phi ct volt pmode = .pos → comparePhase (phi + 1) ct volt pmode = .pos)

/-- 41_pwm_generator.md R144(d): in a synchronous mode with a voltage below `N/2` leg U changes at most `2 · N` times over one
turn of the fundamental: no list of distinct phase words at which it changes is longer. -/
def Obligations.SyncLegChangesAtMostTwiceN : Prop :=
  ∀ (volt pmode : Word) (n : Nat), decodePmode pmode = .sync n → 3 ≤ n → volt.toNat < n * 2 ^ 15 →
    ∀ l : List Word, l.Nodup → (∀ th ∈ l, ChangesAt pmode volt th) → l.length ≤ 2 * n

/-- 43_arithmetic_and_absent_classes.md R180: the exact results of the phase and comparator arithmetic stay inside the widths
the table gives. -/
def Obligations.ExactResultsFitStatedWidths : Prop :=
  (∀ f a : Word, |(f.toNat : Int) * s32 a| < 2 ^ 63) ∧
  (∀ phi : Word, phi.toNat * 45 < 2 ^ 38) ∧
  (∀ k : Nat, k < 1024 → |qsin (k + 1) - qsin k| ≤ 6588356) ∧
  (∀ p : Word, |(qsin (sineInterval p + 1) - qsin (sineInterval p)) * (sinePosition p : Int)| < 2 ^ 45) ∧
  (∀ volt phi : Word, |modulating phi volt| < 2 ^ 62) ∧
  (∀ c : Word, |tri c| ≤ 2 ^ 46)

/-! ## The filter bank -/

/-- 42_biquad_filter.md R161, selector by selector. -/
def Obligations.LdcLoadsOneCoefficientOrFlagsIll : Prop :=
  (∀ w : CmdWord, opField w = 0x7 →
    ((selField w).toNat ≤ 4 → decode w = .ok (.ldc (selField w) (aField w))) ∧
    (5 ≤ (selField w).toNat → IllegalWord w)) ∧
  ∀ (s : State) (a : Word),
    exec (.ldc 0 a) s = .next { s with dc := { s.dc with b0 := a }, rsp := .none } ∧
    exec (.ldc 1 a) s = .next { s with dc := { s.dc with b1 := a }, rsp := .none } ∧
    exec (.ldc 2 a) s = .next { s with dc := { s.dc with b2 := a }, rsp := .none } ∧
    exec (.ldc 3 a) s = .next { s with dc := { s.dc with a1 := a }, rsp := .none } ∧
    exec (.ldc 4 a) s = .next { s with dc := { s.dc with a2 := a }, rsp := .none } ∧
    ∀ sel : BitVec 4, 5 ≤ sel.toNat → exec (.ldc sel a) s = .next { s with ill := true, rsp := .none }

/-- 42_biquad_filter.md R162: all five coefficients are copied, `DC` and the histories keep their values. -/
def Obligations.SetcoefCopiesAllFive : Prop :=
  (∀ w : CmdWord, opField w = 0x8 → decode w = .ok .setcoef) ∧
  ∀ s : State, exec .setcoef s =
    .next { s with c := ⟨s.dc.b0, s.dc.b1, s.dc.b2, s.dc.a1, s.dc.a2⟩, rsp := .none }

/-- 42_biquad_filter.md R164: `FEN` is 0 for the operand zero and 1 for every other. -/
def Obligations.FctlEnablesOnNonzero : Prop :=
  (∀ w : CmdWord, opField w = 0x9 → decode w = .ok (.fctl (aField w))) ∧
  ∀ s : State,
    exec (.fctl 0) s = .next { s with fen := false, rsp := .none } ∧
    ∀ a : Word, a ≠ 0 → exec (.fctl a) s = .next { s with fen := true, rsp := .none }

/-- 42_biquad_filter.md R166: `process` is the Direct Form I recurrence on exact integers, rounded, clamped, and the history
shifted; the stored output is the one returned. -/
def Obligations.ProcessIsDirectFormOne : Prop :=
  ∀ (c : Coefs) (h : Hist) (x : Int),
    let acc : Int := c.b0.toInt * x + c.b1.toInt * h.x1.toInt + c.b2.toInt * h.x2.toInt
      - c.a1.toInt * h.y1.toInt - c.a2.toInt * h.y2.toInt
    let yr : Int := ⌊((acc : ℚ) + 2 ^ 29) / 2 ^ 30⌋
    let o := process c h x
    o.y = (if yr < -2 ^ 31 then -2 ^ 31 else if 2 ^ 31 - 1 < yr then 2 ^ 31 - 1 else yr) ∧
    (o.clamped = true ↔ o.y ≠ yr) ∧
    o.hist = ⟨BitVec.ofInt 32 x, h.x1, BitVec.ofInt 32 o.y, h.y1⟩

/-- 42_biquad_filter.md R167: for an input in the sample format the sum of products is below `5 · 2^62` in magnitude, so a
66-bit accumulator holds it, and the rounded sum is at most `5 · 2^32`. -/
def Obligations.FilterSumFitsAccumulator : Prop :=
  ∀ (c : Coefs) (h : Hist) (x : Int), -2 ^ 31 ≤ x → x < 2 ^ 31 →
    |filterSum c h x| < 5 * 2 ^ 62 ∧ |filterSum c h x| < 2 ^ 65 ∧ |filterRound (filterSum c h x)| ≤ 5 * 2 ^ 32

/-- 42_biquad_filter.md R160, R166, R167: unless it clamps, the output is within half a unit of the sample format of the
recurrence evaluated on the rational numbers the words stand for. -/
def Obligations.UnclampedOutputWithinHalfUnit : Prop :=
  ∀ (c : Coefs) (h : Hist) (x : Word), (process c h (s32 x)).clamped = false →
    |sampleValue (BitVec.ofInt 32 (process c h (s32 x)).y) -
      (coefValue c.b0 * sampleValue x + coefValue c.b1 * sampleValue h.x1 + coefValue c.b2 * sampleValue h.x2
        - coefValue c.a1 * sampleValue h.y1 - coefValue c.a2 * sampleValue h.y2)| ≤ 1 / 2 ^ 29

/-- 42_biquad_filter.md R169, R170. With `FEN = 1` the comparator values enter as `±2^28`, each leg goes through its own
history with the one coefficient file, `SAT` gathers the clamps, nothing else changes. With `FEN = 0` the comparator values
themselves are returned in the sample format and nothing is written. The legs are shown as bit 1 for `+1` and bit 0 for `-1`
(30_encoding.md R79). -/
def Obligations.ProcFiltersOrBypassesLegs : Prop :=
  (∀ w : CmdWord, opField w = 0xA → decode w = .ok .proc) ∧
  ∀ s : State,
    let o := generate s.th s.ct s.p.volt s.p.pmode
    let x : Leg → Int := fun l => if l = .pos then 2 ^ 28 else -2 ^ 28
    let y : Leg → Word := fun l => if l = .pos then 0x10000000 else 0xF0000000
    let bit : Leg → BitVec 1 := fun l => if l = .pos then 1 else 0
    let fu := process s.c s.h.u (x o.u)
    let fv := process s.c s.h.v (x o.v)
    let fw := process s.c s.h.w (x o.w)
    (s.fen = true → exec .proc s = .next
      { s with
        h := ⟨fu.hist, fv.hist, fw.hist⟩
        sat := s.sat || fu.clamped || fv.clamped || fw.clamped
        rsp := .filt (bit o.u) (bit o.v) (bit o.w) s.th (BitVec.ofInt 32 fu.y) (BitVec.ofInt 32 fv.y) (BitVec.ofInt 32 fw.y) }) ∧
    (s.fen = false → exec .proc s = .next
      { s with rsp := .filt (bit o.u) (bit o.v) (bit o.w) s.th (y o.u) (y o.v) (y o.w) })

/-- 42_biquad_filter.md R172: `TICK a` is `PROC` followed by `ADVANCE a`, with the response of the `PROC`, whose angle is
`TH` before the advance; `TICK 0` equals `PROC`. -/
def Obligations.TickIsProcThenAdvance : Prop :=
  (∀ w : CmdWord, opField w = 0xB → decode w = .ok (.tick (aField w))) ∧
  ∀ s : State,
    (∀ a : Word, ∃ m n : State, exec .proc s = .next m ∧ exec (.advance a) m = .next n ∧
      exec (.tick a) s = .next { n with rsp := m.rsp } ∧
      ∃ u v w yu yv yw, m.rsp = .filt u v w s.th yu yv yw) ∧
    exec (.tick 0) s = exec .proc s

/-- 42_biquad_filter.md R166, 43_arithmetic_and_absent_classes.md R183: what a leg outputs and stores does not depend on the
histories of the other legs. -/
def Obligations.LegsDoNotReadEachOthersHistory : Prop :=
  ∀ (s t t' : State) (b : Bank) (k : LegName), b.get k = s.h.get k →
    exec .proc s = .next t → exec .proc { s with h := b } = .next t' →
    t'.h.get k = t.h.get k ∧ t'.rsp.legOutput k = t.rsp.legOutput k

/-- 42_biquad_filter.md R173: the unit step through the example low-pass: the first eight outputs, the first one above `2^28`
at sample 13, the peak at sample 16, the dip at sample 33, no clamp ever, and constant at `0x10000001` from sample 100 on. -/
def Obligations.ExampleStepResponseSettles : Prop :=
  (List.range 8).map (fun n => (stepOutput exampleLowPass (2 ^ 28) n).y) =
    [3865767, 17909924, 42039626, 71744019, 103586963, 135072409, 164497281, 190804202] ∧
  (∀ n, n < 13 → (stepOutput exampleLowPass (2 ^ 28) n).y ≤ 2 ^ 28) ∧ 2 ^ 28 < (stepOutput exampleLowPass (2 ^ 28) 13).y ∧
  (stepOutput exampleLowPass (2 ^ 28) 16).y = 280292594 ∧ (stepOutput exampleLowPass (2 ^ 28) 33).y = 267902625 ∧
  (∀ n, (stepOutput exampleLowPass (2 ^ 28) n).clamped = false ∧ (stepOutput exampleLowPass (2 ^ 28) n).y ≤ 280292594) ∧
  ∀ n, 100 ≤ n → (stepOutput exampleLowPass (2 ^ 28) n).y = 268435457

/-! ## Rules about the whole machine -/

/-- 30_encoding.md R78: each command completes, with a response of its kind. -/
def Obligations.EachCommandRespondsWithItsKind : Prop :=
  ∀ (i : Instr) (s : State), ∃ t, exec i s = .next t ∧ t.rsp.kind = responseKind i

/-- 10_state.md R36, the `w` entries, R24, R29 to R31: a command leaves every register alone but those its row lets it write. (The clause `t.pins = s.pins`, that no command takes an input of the host off the
list, is the model's own, log entry 1; R36 does not speak of it.) -/
def Obligations.CommandsWriteOnlyTheirRegisters : Prop :=
  ∀ (i : Instr) (s t : State), exec i s = .next t →
    t.pins = s.pins ∧ ∀ r : Reg, r ∉ mayWrite s.fen i → SameReg s t r

/-- 10_state.md R36, the `r` entries, R37: two states that agree on the registers a command reads get the same response, and
then agree on every register on which they agreed before. -/
def Obligations.CommandsReadOnlyTheirRegisters : Prop :=
  ∀ (i : Instr) (s s' t t' : State), (∀ r ∈ mayRead s.fen i, SameReg s s' r) →
    exec i s = .next t → exec i s' = .next t' →
    t.rsp = t'.rsp ∧ (∀ r : Reg, SameReg s s' r → SameReg t t' r) ∧
    ∀ r : Reg, r ∈ mayWrite s.fen i → r ≠ .sat → (∀ f, i = .apply → r ≠ .p f) → SameReg t t' r

/-- 10_state.md R28, R38(c): a step that is no reset edge never clears a flag. -/
def Obligations.FlagsAreStickyUntilReset : Prop :=
  ∀ s t : State, step s = .next t → (∀ e rest, s.pins = e :: rest → e.rst = false) →
    (s.ill = true → t.ill = true) ∧ (s.sat = true → t.sat = true)

/-- 60_exceptions.md R191, R193, 10_state.md R28: a step sets `ILL` only by an illegal word, and sets `SAT` only by a `PROC` or
`TICK` with `FEN = 1` in which the rounded sum of some leg left the sample range; no step sets both. -/
def Obligations.FlagsAreSetOnlyByTheirCauses : Prop :=
  ∀ s t : State, step s = .next t →
    (s.ill = false → t.ill = true → ∃ w rest, s.pins = PortIn.word w :: rest ∧ IllegalWord w) ∧
    (s.sat = false → t.sat = true →
      s.fen = true ∧ (∃ w rest, s.pins = PortIn.word w :: rest ∧ (decode w = .ok .proc ∨ ∃ a, decode w = .ok (.tick a))) ∧
      ∃ k : LegName,
        let x : Int := if (generate s.th s.ct s.p.volt s.p.pmode).leg k = .pos then 2 ^ 28 else -2 ^ 28
        let yr := filterRound (filterSum s.c (s.h.get k) x)
        yr < -2 ^ 31 ∨ 2 ^ 31 ≤ yr) ∧
    (s.ill = false → t.ill = true → t.sat = s.sat)

/-- 20_memory.md R59: repeating a command that loads, commits or only responds gives the same state and response. -/
def Obligations.RepeatableCommandsAreIdempotent : Prop :=
  ∀ (i : Instr) (s t : State), Repeatable i → exec i s = .next t → exec i t = .next t

/-- 10_state.md R22: the `phase` parameter is observed by `SNAPSHOT` only: two states that differ in nothing else give the same
response to every other command and again differ in nothing else. -/
def Obligations.PhaseParameterIsOnlyForSnapshot : Prop :=
  ∀ (i : Instr) (s s' t t' : State), i ≠ .snapshot → s.blotPhase = s'.blotPhase →
    exec i s = .next t → exec i s' = .next t' → t.rsp = t'.rsp ∧ t.blotPhase = t'.blotPhase

/-- The invariant holds after reset (10_state.md R34). -/
def Obligations.ResetMeetsInvariant : Prop := Inv State.reset

/-- Every step keeps the invariant: a parameter whose mask bit is clear is the staged one (10_state.md R23,
40_phase_accumulator.md R103), and the histories hold comparator values only, the three filters having run equally often
(42_biquad_filter.md R169). -/
def Obligations.StepKeepsInvariant : Prop :=
  ∀ s t : State, Inv s → step s = .next t → Inv t

/-! ## Formats and the assembler -/

/-- 00_scope.md R9: every word of a format is the host's conversion of the number it stands for, so no word is lost in the
formats. (How a conversion rounds a tie is log entry 6; no conversion here meets one.) -/
def Obligations.FormatsConvertBack : Prop :=
  ∀ x : Word, wordOfTurns (turns x) = x ∧ wordOfHertz (hertz x) = x ∧ wordOfModIndex (modIndex x) = x ∧
    wordOfSeconds (seconds x) = x ∧ wordOfSample (sampleValue x) = x ∧ wordOfCoef (coefValue x) = x

/-- 30_encoding.md R85: what the pseudo-instructions do when executed. `SETP` replaces the fields it names (a field it does
not name takes a value pending from an earlier `LDD`, if any, 70_reset_and_hazards.md R214(b)), `SETALL` replaces all five,
`SETFILT` all five coefficients, `FON` and `FOFF` switch the filters. -/
def Obligations.PseudoInstructionsDoWhatTheyName : Prop :=
  ∀ s : State,
    (∀ f v ph cf pm : Option Word, ∃ t, execAll (Asm.Line.setp f v ph cf pm).expand s = .next t ∧ t.dmask = 0 ∧
      t.p.freq = f.getD (if s.dmask.getLsbD 0 then s.d.freq else s.p.freq) ∧
      t.p.volt = v.getD (if s.dmask.getLsbD 1 then s.d.volt else s.p.volt) ∧
      t.p.phase = ph.getD (if s.dmask.getLsbD 2 then s.d.phase else s.p.phase) ∧
      t.p.cfreq = cf.getD (if s.dmask.getLsbD 3 then s.d.cfreq else s.p.cfreq) ∧
      t.p.pmode = pm.getD (if s.dmask.getLsbD 4 then s.d.pmode else s.p.pmode)) ∧
    (∀ f v ph cf pm : Word, ∃ t, execAll (Asm.Line.setall f v ph cf pm).expand s = .next t ∧ t.dmask = 0 ∧
      t.p = ⟨f, v, ph, cf, pm⟩) ∧
    (∀ b0 b1 b2 a1 a2 : Word, ∃ t, execAll (Asm.Line.setfilt b0 b1 b2 a1 a2).expand s = .next t ∧
      t.c = ⟨b0, b1, b2, a1, a2⟩ ∧ t.h = s.h) ∧
    execAll Asm.Line.fon.expand s = .next { s with fen := true, rsp := .none } ∧
    execAll Asm.Line.foff.expand s = .next { s with fen := false, rsp := .none }
end

