-- ==== Sys2Proof/Laws/Decode.lean ====
section
/-! SUPPORT. The four fields of a command word: reading a field of a word put together from its fields, and masks. -/

namespace Sys2Proof

theorem opField_cmdWord (op sel : BitVec 4) (b a : Word) : opField (cmdWord op sel b a) = op := by
  apply BitVec.eq_of_getLsbD_eq
  intro k hk
  simp only [opField, cmdWord, BitVec.getLsbD_extractLsb', BitVec.getLsbD_append]
  have h1 : ¬ (68 + k < 32) := by omega
  have h2 : ¬ (68 + k - 32 < 32) := by omega
  have h3 : ¬ (68 + k - 32 - 32 < 4) := by omega
  have h4 : 68 + k - 32 - 32 - 4 = k := by omega
  simp [hk, h1, h2, h3, h4]

theorem selField_cmdWord (op sel : BitVec 4) (b a : Word) : selField (cmdWord op sel b a) = sel := by
  apply BitVec.eq_of_getLsbD_eq
  intro k hk
  simp only [selField, cmdWord, BitVec.getLsbD_extractLsb', BitVec.getLsbD_append]
  have h1 : ¬ (64 + k < 32) := by omega
  have h2 : ¬ (64 + k - 32 < 32) := by omega
  have h3 : 64 + k - 32 - 32 < 4 := by omega
  have h4 : 64 + k - 32 - 32 = k := by omega
  simp [hk, h1, h2, h4]

theorem bField_cmdWord (op sel : BitVec 4) (b a : Word) : bField (cmdWord op sel b a) = b := by
  apply BitVec.eq_of_getLsbD_eq
  intro k hk
  simp only [bField, cmdWord, BitVec.getLsbD_extractLsb', BitVec.getLsbD_append]
  have h1 : ¬ (32 + k < 32) := by omega
  have h2 : 32 + k - 32 < 32 := by omega
  have h3 : 32 + k - 32 = k := by omega
  simp [hk, h1, h3]

theorem aField_cmdWord (op sel : BitVec 4) (b a : Word) : aField (cmdWord op sel b a) = a := by
  apply BitVec.eq_of_getLsbD_eq
  intro k hk
  simp only [aField, cmdWord, BitVec.getLsbD_extractLsb', BitVec.getLsbD_append]
  simp [hk]

/-- A word is its four fields put together (R70). -/
theorem cmdWord_fields (w : CmdWord) : cmdWord (opField w) (selField w) (bField w) (aField w) = w := by
  apply BitVec.eq_of_getLsbD_eq
  intro k hk
  simp only [opField, selField, bField, aField, cmdWord, BitVec.getLsbD_extractLsb', BitVec.getLsbD_append]
  by_cases h1 : k < 32
  · simp [h1]
  · by_cases h2 : k - 32 < 32
    · simp [h1, h2]; congr 1; omega
    · by_cases h3 : k - 32 - 32 < 4
      · simp [h1, h2, h3]; congr 1; omega
      · have h4 : k - 32 - 32 - 4 < 4 := by omega
        simp [h1, h2, h3, h4]; congr 1; omega

/-- Masking a word masks its fields. -/
theorem cmdWord_and (op sel : BitVec 4) (b a : Word) (op' sel' : BitVec 4) (b' a' : Word) :
    cmdWord op sel b a &&& cmdWord op' sel' b' a' = cmdWord (op &&& op') (sel &&& sel') (b &&& b') (a &&& a') := by
  apply BitVec.eq_of_getLsbD_eq
  intro k hk
  simp only [cmdWord, BitVec.getLsbD_and, BitVec.getLsbD_append]
  split <;> [skip; split <;> [skip; split]] <;> rfl

theorem word_and_full (a : Word) : a &&& 0xFFFFFFFF#32 = a := BitVec.and_allOnes
theorem sel_and_full (sel : BitVec 4) : sel &&& 0xF#4 = sel := BitVec.and_allOnes

/-- The field lemmas under one name, for rewriting. -/
theorem cmdWord_inj (op sel op' sel' : BitVec 4) (b a b' a' : Word) :
    cmdWord op sel b a = cmdWord op' sel' b' a' ↔ op = op' ∧ sel = sel' ∧ b = b' ∧ a = a' := by
  constructor
  · intro h
    have h1 := congrArg opField h
    have h2 := congrArg selField h
    have h3 := congrArg bField h
    have h4 := congrArg aField h
    simp only [opField_cmdWord, selField_cmdWord, bField_cmdWord, aField_cmdWord] at h1 h2 h3 h4
    exact ⟨h1, h2, h3, h4⟩
  · rintro ⟨rfl, rfl, rfl, rfl⟩
    rfl

theorem legalSel_iff (sel : BitVec 4) : legalSel sel = true ↔ sel.toNat ≤ 4 := by simp [legalSel]

end Sys2Proof
end

