-- ==== Sys2Proof/Laws/Operands.lean ====
section
/-! SUPPORT. What the number readings, the selectors and the leg values do, once each. -/

namespace Sys2Proof.Machine

/-- `u32` is the true modulo (00_scope.md R11). -/
theorem u32_toNat (v : Int) : ((u32 v).toNat : Int) = v % 2 ^ 32 := by
  simp only [u32, BitVec.toNat_ofInt]
  omega

/-- `u32` undoes reading a word as a number. -/
theorem u32_natCast (w : Word) : u32 (w.toNat : Int) = w := by
  apply BitVec.eq_of_toNat_eq
  have h := u32_toNat (w.toNat : Int)
  have := w.isLt
  omega

/-- `u32` undoes the two's complement reading. -/
theorem u32_s32 (w : Word) : u32 (s32 w) = w := BitVec.ofInt_toInt

theorem u32_inj (v v' : Int) : u32 v = u32 v' ↔ v % 2 ^ 32 = v' % 2 ^ 32 := by
  constructor
  · intro h
    rw [← u32_toNat, ← u32_toNat, h]
  · intro h
    apply BitVec.eq_of_toNat_eq
    have h1 := u32_toNat v
    have h2 := u32_toNat v'
    omega

/-- The range of the two's complement reading. -/
theorem s32_bounds (w : Word) : -2 ^ 31 ≤ s32 w ∧ s32 w < 2 ^ 31 := by
  have h1 := BitVec.le_toInt w
  have h2 := @BitVec.toInt_lt 32 w
  simp only [s32]
  omega

/-- A number in range reads back as itself. -/
theorem s32_u32 (v : Int) (h1 : -2 ^ 31 ≤ v) (h2 : v < 2 ^ 31) : s32 (u32 v) = v := by
  simp only [s32, u32, BitVec.toInt_ofInt]
  rw [Int.bmod_eq_of_le] <;> norm_num <;> omega

theorem sat32_bounds (v : Int) : -2 ^ 31 ≤ sat32 v ∧ sat32 v ≤ 2 ^ 31 - 1 := by
  simp only [sat32]
  omega

theorem sat32_of_range (v : Int) (h1 : -2 ^ 31 ≤ v) (h2 : v < 2 ^ 31) : sat32 v = v := by
  simp only [sat32]
  omega

/-- The clamp acts exactly outside the range of the sample format (42_biquad_filter.md R167). -/
theorem clamps_iff (v : Int) : clamps v = true ↔ v < -2 ^ 31 ∨ 2 ^ 31 ≤ v := by
  simp only [clamps, sat32, bne_iff_ne, ne_eq]
  omega

theorem leg_sample_pos : Leg.sample .pos = 2 ^ 28 := by decide
theorem leg_sample_neg : Leg.sample .neg = -2 ^ 28 := by decide

/-- The filter inputs as words (R169). -/
theorem u32_leg_sample (l : Leg) : u32 l.sample = if l = .pos then 0x10000000 else 0xF0000000 := by
  cases l <;> decide

theorem paramSel_none_iff (sel : BitVec 4) : paramSel sel = none ↔ 5 ≤ sel.toNat := by
  revert sel
  decide

theorem coefSel_none_iff (sel : BitVec 4) : coefSel sel = none ↔ 5 ≤ sel.toNat := by
  revert sel
  decide

theorem paramSel_some (sel : BitVec 4) (f : ParamSel) : paramSel sel = some f ↔ sel.toNat = f.index := by
  revert sel
  cases f <;> decide

@[simp] theorem Params.get_set (r : Params) (f g : ParamSel) (a : Word) :
    (r.set f a).get g = if f = g then a else r.get g := by
  cases f <;> cases g <;> rfl

@[simp] theorem Coefs.get_set (r : Coefs) (f g : CoefSel) (a : Word) :
    (r.set f a).get g = if f = g then a else r.get g := by
  cases f <;> cases g <;> rfl

/-- Two parameter files with the same five registers are equal. -/
theorem Params.ext_get (r r' : Params) (h : ∀ f, r.get f = r'.get f) : r = r' := by
  cases r
  cases r'
  have h0 := h .freq
  have h1 := h .volt
  have h2 := h .phase
  have h3 := h .cfreq
  have h4 := h .pmode
  simp only [Params.get] at h0 h1 h2 h3 h4
  simp [h0, h1, h2, h3, h4]

/-- Two coefficient files with the same five registers are equal. -/
theorem Coefs.ext_get (r r' : Coefs) (h : ∀ f, r.get f = r'.get f) : r = r' := by
  cases r
  cases r'
  have h0 := h .b0
  have h1 := h .b1
  have h2 := h .b2
  have h3 := h .a1
  have h4 := h .a2
  simp only [Coefs.get] at h0 h1 h2 h3 h4
  simp [h0, h1, h2, h3, h4]

/-- Setting one bit of `DMASK` sets that bit only. -/
theorem dmask_set (m : BitVec 5) (f g : ParamSel) :
    (m ||| (1#5 <<< f.index)).getLsbD g.index = (m.getLsbD g.index || decide (f = g)) := by
  revert m
  cases f <;> cases g <;> decide

theorem dmask_zero (f : ParamSel) : (0 : BitVec 5).getLsbD f.index = false := by
  cases f <;> rfl

end Sys2Proof.Machine
end

