-- ==== Sys2Proof/Laws/State.lean ====
section
/-! SUPPORT. For every operation over State, one lemma per field: the field it writes has this value, every other field is
unchanged. Later proofs cite these (they are simp lemmas) and unfold no record update. -/

namespace Sys2Proof.Machine

section
variable (s : State) (r : Response)

@[simp] theorem State.respond_p : (s.respond r).p = s.p := rfl
@[simp] theorem State.respond_d : (s.respond r).d = s.d := rfl
@[simp] theorem State.respond_dmask : (s.respond r).dmask = s.dmask := rfl
@[simp] theorem State.respond_th : (s.respond r).th = s.th := rfl
@[simp] theorem State.respond_ct : (s.respond r).ct = s.ct := rfl
@[simp] theorem State.respond_c : (s.respond r).c = s.c := rfl
@[simp] theorem State.respond_dc : (s.respond r).dc = s.dc := rfl
@[simp] theorem State.respond_h : (s.respond r).h = s.h := rfl
@[simp] theorem State.respond_fen : (s.respond r).fen = s.fen := rfl
@[simp] theorem State.respond_ill : (s.respond r).ill = s.ill := rfl
@[simp] theorem State.respond_sat : (s.respond r).sat = s.sat := rfl
@[simp] theorem State.respond_pins : (s.respond r).pins = s.pins := rfl
@[simp] theorem State.respond_rsp : (s.respond r).rsp = r := rfl

end

section
variable (s : State)

@[simp] theorem State.flagIll_p : (s.flagIll).p = s.p := rfl
@[simp] theorem State.flagIll_d : (s.flagIll).d = s.d := rfl
@[simp] theorem State.flagIll_dmask : (s.flagIll).dmask = s.dmask := rfl
@[simp] theorem State.flagIll_th : (s.flagIll).th = s.th := rfl
@[simp] theorem State.flagIll_ct : (s.flagIll).ct = s.ct := rfl
@[simp] theorem State.flagIll_c : (s.flagIll).c = s.c := rfl
@[simp] theorem State.flagIll_dc : (s.flagIll).dc = s.dc := rfl
@[simp] theorem State.flagIll_h : (s.flagIll).h = s.h := rfl
@[simp] theorem State.flagIll_fen : (s.flagIll).fen = s.fen := rfl
@[simp] theorem State.flagIll_ill : (s.flagIll).ill = true := rfl
@[simp] theorem State.flagIll_sat : (s.flagIll).sat = s.sat := rfl
@[simp] theorem State.flagIll_pins : (s.flagIll).pins = s.pins := rfl
@[simp] theorem State.flagIll_rsp : (s.flagIll).rsp = s.rsp := rfl

end

section
variable (s : State) (b : Bool)

@[simp] theorem State.flagSat_p : (s.flagSat b).p = s.p := rfl
@[simp] theorem State.flagSat_d : (s.flagSat b).d = s.d := rfl
@[simp] theorem State.flagSat_dmask : (s.flagSat b).dmask = s.dmask := rfl
@[simp] theorem State.flagSat_th : (s.flagSat b).th = s.th := rfl
@[simp] theorem State.flagSat_ct : (s.flagSat b).ct = s.ct := rfl
@[simp] theorem State.flagSat_c : (s.flagSat b).c = s.c := rfl
@[simp] theorem State.flagSat_dc : (s.flagSat b).dc = s.dc := rfl
@[simp] theorem State.flagSat_h : (s.flagSat b).h = s.h := rfl
@[simp] theorem State.flagSat_fen : (s.flagSat b).fen = s.fen := rfl
@[simp] theorem State.flagSat_ill : (s.flagSat b).ill = s.ill := rfl
@[simp] theorem State.flagSat_sat : (s.flagSat b).sat = (s.sat || b) := rfl
@[simp] theorem State.flagSat_pins : (s.flagSat b).pins = s.pins := rfl
@[simp] theorem State.flagSat_rsp : (s.flagSat b).rsp = s.rsp := rfl

end

section
variable (s : State)

@[simp] theorem State.rejectWord_p : (s.rejectWord).p = s.p := rfl
@[simp] theorem State.rejectWord_d : (s.rejectWord).d = s.d := rfl
@[simp] theorem State.rejectWord_dmask : (s.rejectWord).dmask = s.dmask := rfl
@[simp] theorem State.rejectWord_th : (s.rejectWord).th = s.th := rfl
@[simp] theorem State.rejectWord_ct : (s.rejectWord).ct = s.ct := rfl
@[simp] theorem State.rejectWord_c : (s.rejectWord).c = s.c := rfl
@[simp] theorem State.rejectWord_dc : (s.rejectWord).dc = s.dc := rfl
@[simp] theorem State.rejectWord_h : (s.rejectWord).h = s.h := rfl
@[simp] theorem State.rejectWord_fen : (s.rejectWord).fen = s.fen := rfl
@[simp] theorem State.rejectWord_ill : (s.rejectWord).ill = true := rfl
@[simp] theorem State.rejectWord_sat : (s.rejectWord).sat = s.sat := rfl
@[simp] theorem State.rejectWord_pins : (s.rejectWord).pins = s.pins := rfl
@[simp] theorem State.rejectWord_rsp : (s.rejectWord).rsp = .none := rfl

end

section
variable (s : State) (f : ParamSel) (a : Word)

@[simp] theorem State.loadDelta_p : (s.loadDelta f a).p = s.p := rfl
@[simp] theorem State.loadDelta_d : (s.loadDelta f a).d = s.d.set f a := rfl
@[simp] theorem State.loadDelta_dmask : (s.loadDelta f a).dmask = s.dmask ||| (1#5 <<< f.index) := rfl
@[simp] theorem State.loadDelta_th : (s.loadDelta f a).th = s.th := rfl
@[simp] theorem State.loadDelta_ct : (s.loadDelta f a).ct = s.ct := rfl
@[simp] theorem State.loadDelta_c : (s.loadDelta f a).c = s.c := rfl
@[simp] theorem State.loadDelta_dc : (s.loadDelta f a).dc = s.dc := rfl
@[simp] theorem State.loadDelta_h : (s.loadDelta f a).h = s.h := rfl
@[simp] theorem State.loadDelta_fen : (s.loadDelta f a).fen = s.fen := rfl
@[simp] theorem State.loadDelta_ill : (s.loadDelta f a).ill = s.ill := rfl
@[simp] theorem State.loadDelta_sat : (s.loadDelta f a).sat = s.sat := rfl
@[simp] theorem State.loadDelta_pins : (s.loadDelta f a).pins = s.pins := rfl
@[simp] theorem State.loadDelta_rsp : (s.loadDelta f a).rsp = s.rsp := rfl

end

section
variable (s : State)

@[simp] theorem State.mergeDelta_d : (s.mergeDelta).d = s.d := rfl
@[simp] theorem State.mergeDelta_dmask : (s.mergeDelta).dmask = 0 := rfl
@[simp] theorem State.mergeDelta_th : (s.mergeDelta).th = s.th := rfl
@[simp] theorem State.mergeDelta_ct : (s.mergeDelta).ct = s.ct := rfl
@[simp] theorem State.mergeDelta_c : (s.mergeDelta).c = s.c := rfl
@[simp] theorem State.mergeDelta_dc : (s.mergeDelta).dc = s.dc := rfl
@[simp] theorem State.mergeDelta_h : (s.mergeDelta).h = s.h := rfl
@[simp] theorem State.mergeDelta_fen : (s.mergeDelta).fen = s.fen := rfl
@[simp] theorem State.mergeDelta_ill : (s.mergeDelta).ill = s.ill := rfl
@[simp] theorem State.mergeDelta_sat : (s.mergeDelta).sat = s.sat := rfl
@[simp] theorem State.mergeDelta_pins : (s.mergeDelta).pins = s.pins := rfl
@[simp] theorem State.mergeDelta_rsp : (s.mergeDelta).rsp = s.rsp := rfl

end

section
variable (s : State) (a : Word)

@[simp] theorem State.advancePhases_p : (s.advancePhases a).p = s.p := rfl
@[simp] theorem State.advancePhases_d : (s.advancePhases a).d = s.d := rfl
@[simp] theorem State.advancePhases_dmask : (s.advancePhases a).dmask = s.dmask := rfl
@[simp] theorem State.advancePhases_th : (s.advancePhases a).th = phaseStep s.th s.p.freq a := rfl
@[simp] theorem State.advancePhases_ct : (s.advancePhases a).ct = phaseStep s.ct s.p.cfreq a := rfl
@[simp] theorem State.advancePhases_c : (s.advancePhases a).c = s.c := rfl
@[simp] theorem State.advancePhases_dc : (s.advancePhases a).dc = s.dc := rfl
@[simp] theorem State.advancePhases_h : (s.advancePhases a).h = s.h := rfl
@[simp] theorem State.advancePhases_fen : (s.advancePhases a).fen = s.fen := rfl
@[simp] theorem State.advancePhases_ill : (s.advancePhases a).ill = s.ill := rfl
@[simp] theorem State.advancePhases_sat : (s.advancePhases a).sat = s.sat := rfl
@[simp] theorem State.advancePhases_pins : (s.advancePhases a).pins = s.pins := rfl
@[simp] theorem State.advancePhases_rsp : (s.advancePhases a).rsp = s.rsp := rfl

end

section
variable (s : State) (f : CoefSel) (a : Word)

@[simp] theorem State.loadCoef_p : (s.loadCoef f a).p = s.p := rfl
@[simp] theorem State.loadCoef_d : (s.loadCoef f a).d = s.d := rfl
@[simp] theorem State.loadCoef_dmask : (s.loadCoef f a).dmask = s.dmask := rfl
@[simp] theorem State.loadCoef_th : (s.loadCoef f a).th = s.th := rfl
@[simp] theorem State.loadCoef_ct : (s.loadCoef f a).ct = s.ct := rfl
@[simp] theorem State.loadCoef_c : (s.loadCoef f a).c = s.c := rfl
@[simp] theorem State.loadCoef_dc : (s.loadCoef f a).dc = s.dc.set f a := rfl
@[simp] theorem State.loadCoef_h : (s.loadCoef f a).h = s.h := rfl
@[simp] theorem State.loadCoef_fen : (s.loadCoef f a).fen = s.fen := rfl
@[simp] theorem State.loadCoef_ill : (s.loadCoef f a).ill = s.ill := rfl
@[simp] theorem State.loadCoef_sat : (s.loadCoef f a).sat = s.sat := rfl
@[simp] theorem State.loadCoef_pins : (s.loadCoef f a).pins = s.pins := rfl
@[simp] theorem State.loadCoef_rsp : (s.loadCoef f a).rsp = s.rsp := rfl

end

section
variable (s : State)

@[simp] theorem State.commitCoefs_p : (s.commitCoefs).p = s.p := rfl
@[simp] theorem State.commitCoefs_d : (s.commitCoefs).d = s.d := rfl
@[simp] theorem State.commitCoefs_dmask : (s.commitCoefs).dmask = s.dmask := rfl
@[simp] theorem State.commitCoefs_th : (s.commitCoefs).th = s.th := rfl
@[simp] theorem State.commitCoefs_ct : (s.commitCoefs).ct = s.ct := rfl
@[simp] theorem State.commitCoefs_c : (s.commitCoefs).c = s.dc := rfl
@[simp] theorem State.commitCoefs_dc : (s.commitCoefs).dc = s.dc := rfl
@[simp] theorem State.commitCoefs_h : (s.commitCoefs).h = s.h := rfl
@[simp] theorem State.commitCoefs_fen : (s.commitCoefs).fen = s.fen := rfl
@[simp] theorem State.commitCoefs_ill : (s.commitCoefs).ill = s.ill := rfl
@[simp] theorem State.commitCoefs_sat : (s.commitCoefs).sat = s.sat := rfl
@[simp] theorem State.commitCoefs_pins : (s.commitCoefs).pins = s.pins := rfl
@[simp] theorem State.commitCoefs_rsp : (s.commitCoefs).rsp = s.rsp := rfl

end

section
variable (s : State) (o : PwmOut)

@[simp] theorem State.bypassLegs_p : (s.bypassLegs o).p = s.p := rfl
@[simp] theorem State.bypassLegs_d : (s.bypassLegs o).d = s.d := rfl
@[simp] theorem State.bypassLegs_dmask : (s.bypassLegs o).dmask = s.dmask := rfl
@[simp] theorem State.bypassLegs_th : (s.bypassLegs o).th = s.th := rfl
@[simp] theorem State.bypassLegs_ct : (s.bypassLegs o).ct = s.ct := rfl
@[simp] theorem State.bypassLegs_c : (s.bypassLegs o).c = s.c := rfl
@[simp] theorem State.bypassLegs_dc : (s.bypassLegs o).dc = s.dc := rfl
@[simp] theorem State.bypassLegs_h : (s.bypassLegs o).h = s.h := rfl
@[simp] theorem State.bypassLegs_fen : (s.bypassLegs o).fen = s.fen := rfl
@[simp] theorem State.bypassLegs_ill : (s.bypassLegs o).ill = s.ill := rfl
@[simp] theorem State.bypassLegs_sat : (s.bypassLegs o).sat = s.sat := rfl
@[simp] theorem State.bypassLegs_pins : (s.bypassLegs o).pins = s.pins := rfl
@[simp] theorem State.bypassLegs_rsp : (s.bypassLegs o).rsp = o.filtResponse o.u.sample o.v.sample o.w.sample := rfl

end

section
variable (s : State) (o : PwmOut)

@[simp] theorem State.filterLegs_p : (s.filterLegs o).p = s.p := rfl
@[simp] theorem State.filterLegs_d : (s.filterLegs o).d = s.d := rfl
@[simp] theorem State.filterLegs_dmask : (s.filterLegs o).dmask = s.dmask := rfl
@[simp] theorem State.filterLegs_th : (s.filterLegs o).th = s.th := rfl
@[simp] theorem State.filterLegs_ct : (s.filterLegs o).ct = s.ct := rfl
@[simp] theorem State.filterLegs_c : (s.filterLegs o).c = s.c := rfl
@[simp] theorem State.filterLegs_dc : (s.filterLegs o).dc = s.dc := rfl
@[simp] theorem State.filterLegs_h :
    (s.filterLegs o).h = ⟨(process s.c s.h.u o.u.sample).hist, (process s.c s.h.v o.v.sample).hist, (process s.c s.h.w o.w.sample).hist⟩ :=
  rfl
@[simp] theorem State.filterLegs_fen : (s.filterLegs o).fen = s.fen := rfl
@[simp] theorem State.filterLegs_ill : (s.filterLegs o).ill = s.ill := rfl
@[simp] theorem State.filterLegs_sat :
    (s.filterLegs o).sat = (s.sat || ((process s.c s.h.u o.u.sample).clamped || (process s.c s.h.v o.v.sample).clamped || (process s.c s.h.w o.w.sample).clamped)) :=
  rfl
@[simp] theorem State.filterLegs_pins : (s.filterLegs o).pins = s.pins := rfl
@[simp] theorem State.filterLegs_rsp :
    (s.filterLegs o).rsp = o.filtResponse (process s.c s.h.u o.u.sample).y (process s.c s.h.v o.v.sample).y (process s.c s.h.w o.w.sample).y :=
  rfl

end

section
variable (s : State)

@[simp] theorem State.processLegs_p : (s.processLegs).p = s.p := by unfold State.processLegs; split <;> rfl
@[simp] theorem State.processLegs_d : (s.processLegs).d = s.d := by unfold State.processLegs; split <;> rfl
@[simp] theorem State.processLegs_dmask :
    (s.processLegs).dmask = s.dmask :=
  by unfold State.processLegs; split <;> rfl
@[simp] theorem State.processLegs_th : (s.processLegs).th = s.th := by unfold State.processLegs; split <;> rfl
@[simp] theorem State.processLegs_ct : (s.processLegs).ct = s.ct := by unfold State.processLegs; split <;> rfl
@[simp] theorem State.processLegs_c : (s.processLegs).c = s.c := by unfold State.processLegs; split <;> rfl
@[simp] theorem State.processLegs_dc : (s.processLegs).dc = s.dc := by unfold State.processLegs; split <;> rfl
@[simp] theorem State.processLegs_fen : (s.processLegs).fen = s.fen := by unfold State.processLegs; split <;> rfl
@[simp] theorem State.processLegs_ill : (s.processLegs).ill = s.ill := by unfold State.processLegs; split <;> rfl
@[simp] theorem State.processLegs_pins : (s.processLegs).pins = s.pins := by unfold State.processLegs; split <;> rfl

end

section
variable (s : State)

@[simp] theorem State.idleEdge_p : (s.idleEdge).p = s.p := rfl
@[simp] theorem State.idleEdge_d : (s.idleEdge).d = s.d := rfl
@[simp] theorem State.idleEdge_dmask : (s.idleEdge).dmask = s.dmask := rfl
@[simp] theorem State.idleEdge_th : (s.idleEdge).th = s.th := rfl
@[simp] theorem State.idleEdge_ct : (s.idleEdge).ct = s.ct := rfl
@[simp] theorem State.idleEdge_c : (s.idleEdge).c = s.c := rfl
@[simp] theorem State.idleEdge_dc : (s.idleEdge).dc = s.dc := rfl
@[simp] theorem State.idleEdge_h : (s.idleEdge).h = s.h := rfl
@[simp] theorem State.idleEdge_fen : (s.idleEdge).fen = s.fen := rfl
@[simp] theorem State.idleEdge_ill : (s.idleEdge).ill = s.ill := rfl
@[simp] theorem State.idleEdge_sat : (s.idleEdge).sat = s.sat := rfl
@[simp] theorem State.idleEdge_pins : (s.idleEdge).pins = s.pins := rfl
@[simp] theorem State.idleEdge_rsp : (s.idleEdge).rsp = .none := rfl

end

section
variable (s : State) (w : CmdWord)

@[simp] theorem State.present_p : (s.present w).p = s.p := rfl
@[simp] theorem State.present_d : (s.present w).d = s.d := rfl
@[simp] theorem State.present_dmask : (s.present w).dmask = s.dmask := rfl
@[simp] theorem State.present_th : (s.present w).th = s.th := rfl
@[simp] theorem State.present_ct : (s.present w).ct = s.ct := rfl
@[simp] theorem State.present_c : (s.present w).c = s.c := rfl
@[simp] theorem State.present_dc : (s.present w).dc = s.dc := rfl
@[simp] theorem State.present_h : (s.present w).h = s.h := rfl
@[simp] theorem State.present_fen : (s.present w).fen = s.fen := rfl
@[simp] theorem State.present_ill : (s.present w).ill = s.ill := rfl
@[simp] theorem State.present_sat : (s.present w).sat = s.sat := rfl
@[simp] theorem State.present_pins : (s.present w).pins = ⟨false, true, w⟩ :: s.pins := rfl
@[simp] theorem State.present_rsp : (s.present w).rsp = s.rsp := rfl

end

/-- A reset edge leaves the state after reset, with the host's inputs still to come. -/
theorem State.resetEdge_eq (s : State) : s.resetEdge = { State.reset with pins := s.pins } := rfl

/-- Taking the inputs of one edge off the list changes no register. -/
theorem State.popped_eq (s : State) (w : CmdWord) : { s.present w with pins := s.pins } = s := rfl

end Sys2Proof.Machine
end

