-- ==== Sys2Proof/Laws/Ops.lean ====
section
/-! SUPPORT. One spec lemma for each shared operation, for later proofs to cite instead of unfolding it. -/

namespace Sys2Proof.Machine

/-- One round of the merge: field `f` is replaced if it is present, every other field is kept. -/
theorem mergeField_get (m : BitVec 5) (d p : Params) (f g : ParamSel) :
    (mergeField m d p f).get g = if f = g ∧ m.getLsbD f.index = true then d.get g else p.get g := by
  unfold mergeField
  by_cases h : m.getLsbD f.index = true
  · by_cases hf : f = g
    · subst hf
      simp [h]
    · simp [h, hf]
  · simp [h]

/-- The merge, field by field: a field present in the push is replaced, an absent one is kept (40_phase_accumulator.md
R103). -/
theorem State.mergeDelta_get (s : State) (f : ParamSel) :
    s.mergeDelta.p.get f = if s.dmask.getLsbD f.index then s.d.get f else s.p.get f := by
  simp only [State.mergeDelta, List.foldl_cons, List.foldl_nil, mergeField_get]
  cases f <;> simp only [reduceCtorEq, false_and, true_and, if_false]

/-- One phase after a step, as a number (R105). -/
theorem phaseStep_toNat (phase f a : Word) :
    ((phaseStep phase f a).toNat : Int) = ((phase.toNat : Int) + (f.toNat : Int) * s32 a / 2 ^ 16) % 2 ^ 32 :=
  u32_toNat _

/-- The locked carrier, as a number (41_pwm_generator.md R136). -/
theorem lockedCarrier_toNat (phi : Word) (n : Nat) : (lockedCarrier phi n).toNat = phi.toNat * n % 2 ^ 32 := by
  have h := u32_toNat ((phi.toNat : Int) * (n : Int))
  rw [lockedCarrier]
  omega

/-- The rounding is to nearest, a tie toward plus infinity: the error lies in `[-2^29, 2^29)` (42_biquad_filter.md R167). -/
theorem filterRound_error (acc : Int) :
    -2 ^ 29 ≤ acc - filterRound acc * 2 ^ 30 ∧ acc - filterRound acc * 2 ^ 30 < 2 ^ 29 := by
  simp only [filterRound]
  omega

@[simp] theorem process_x1 (c : Coefs) (h : Hist) (x : Int) : (process c h x).hist.x1 = u32 x := rfl
@[simp] theorem process_x2 (c : Coefs) (h : Hist) (x : Int) : (process c h x).hist.x2 = h.x1 := rfl
@[simp] theorem process_y1 (c : Coefs) (h : Hist) (x : Int) : (process c h x).hist.y1 = u32 (process c h x).y := rfl
@[simp] theorem process_y2 (c : Coefs) (h : Hist) (x : Int) : (process c h x).hist.y2 = h.y1 := rfl

/-- The output is in the sample format, so the history holds it without loss (R166, R167). -/
theorem process_y_range (c : Coefs) (h : Hist) (x : Int) :
    -2 ^ 31 ≤ (process c h x).y ∧ (process c h x).y < 2 ^ 31 := by
  have := sat32_bounds (filterRound (filterSum c h x))
  simp only [process]
  omega

/-- The triangle stays between `-2^46` and `2^46` (41_pwm_generator.md R137). -/
theorem tri_bounds (c : Word) : -2 ^ 46 ≤ tri c ∧ tri c ≤ 2 ^ 46 := by
  have := c.isLt
  simp only [tri]
  split <;> omega

theorem generate_u (th ct volt pmode : Word) : (generate th ct volt pmode).u = comparePhase th ct volt pmode := rfl
@[simp] theorem generate_th (th ct volt pmode : Word) : (generate th ct volt pmode).th = th := rfl

/-- The filters enabled or bypassed, the state after `processLegs` (42_biquad_filter.md R169). -/
theorem State.processLegs_eq (s : State) :
    s.processLegs = if s.fen then s.filterLegs s.sampleLegs else s.bypassLegs s.sampleLegs := rfl

end Sys2Proof.Machine
end

