-- ==== Sys2Proof/Laws/Exec.lean ====
section
/-! SUPPORT. What a command can do, and what a step can do, said once. -/

namespace Sys2Proof.Machine

/-- The next state of a command, in terms of the shared operations. -/
def execNext (i : Instr) (s : State) : State :=
  match i with
  | .nop => s.respond .none
  | .ldd sel a => match paramSel sel with
    | some f => (s.loadDelta f a).respond .none
    | none => s.rejectWord
  | .apply => s.mergeDelta.respond .none
  | .advance a => (s.advancePhases a).respond .none
  | .sample => s.respond s.sampleLegs.response
  | .snapshot => s.respond (.snap s.p.freq s.p.volt s.p.phase s.p.cfreq s.p.pmode s.th s.ct)
  | .gen a b => s.respond (generate a b s.p.volt s.p.pmode).response
  | .ldc sel a => match coefSel sel with
    | some f => (s.loadCoef f a).respond .none
    | none => s.rejectWord
  | .setcoef => s.commitCoefs.respond .none
  | .fctl a => ({ s with fen := truth a } : State).respond .none
  | .proc => s.processLegs
  | .tick a => s.processLegs.advancePhases a

/-- Every command, in every state, answers this next state. -/
theorem exec_eq (i : Instr) (s : State) : exec i s = .next (execNext i s) := by
  cases i with
  | ldd sel a => simp only [exec, execLdd, execNext]; cases paramSel sel <;> rfl
  | ldc sel a => simp only [exec, execLdc, execNext]; cases coefSel sel <;> rfl
  | _ => rfl

theorem exec_next_iff (i : Instr) (s t : State) : exec i s = .next t ↔ t = execNext i s := by
  rw [exec_eq]
  constructor
  · intro h
    cases h
    rfl
  · rintro rfl
    rfl

/-- No command takes an input of the host off the list. -/
theorem execNext_pins (i : Instr) (s : State) : (execNext i s).pins = s.pins := by
  cases i with
  | ldd sel a => simp only [execNext]; cases paramSel sel <;> rfl
  | ldc sel a => simp only [execNext]; cases coefSel sel <;> rfl
  | _ => simp [execNext]

/-- Everything a step can do: execute an accepted command, reject a word, take a reset edge, or hold the state. -/
theorem step_cases (s t : State) (h : step s = .next t) :
    (∃ e rest i, s.pins = e :: rest ∧ e.rst = false ∧ e.valid = true ∧ decode e.cmd = .ok i ∧
      t = execNext i { s with pins := rest }) ∨
    (∃ e rest err, s.pins = e :: rest ∧ e.rst = false ∧ e.valid = true ∧ decode e.cmd = .error err ∧
      t = ({ s with pins := rest } : State).rejectWord) ∨
    (∃ e rest, s.pins = e :: rest ∧ e.rst = true ∧ t = { State.reset with pins := rest }) ∨
    (∃ rest, ((s.pins = [] ∧ rest = []) ∨ ∃ e, s.pins = e :: rest ∧ e.rst = false ∧ e.valid = false) ∧
      t = ({ s with pins := rest } : State).idleEdge) := by
  simp only [step, nextEdge] at h
  cases hp : s.pins with
  | nil =>
    rw [hp] at h
    refine .inr (.inr (.inr ⟨[], .inl ⟨rfl, rfl⟩, ?_⟩))
    cases h
    rw [← hp]
  | cons e rest =>
    rw [hp] at h
    cases hr : e.rst with
    | true =>
      simp only [hr, if_true] at h
      cases h
      exact .inr (.inr (.inl ⟨e, rest, rfl, hr, rfl⟩))
    | false =>
      cases hv : e.valid with
      | false =>
        simp only [hr, hv] at h
        cases h
        exact .inr (.inr (.inr ⟨rest, .inr ⟨e, rfl, hr, hv⟩, rfl⟩))
      | true =>
        simp only [hr, hv, acceptWord] at h
        cases hd : decode e.cmd with
        | ok i =>
          simp only [hd] at h
          exact .inl ⟨e, rest, i, rfl, hr, hv, hd, (exec_next_iff _ _ _).1 h⟩
        | error err =>
          simp only [hd] at h
          cases h
          exact .inr (.inl ⟨e, rest, err, rfl, hr, hv, hd, rfl⟩)

end Sys2Proof.Machine
end

