-- ==== Sys2Proof/Laws/Formats.lean ====
section
/-! SUPPORT. The numbers the model is written with are the parameters of 00_scope.md R8, and the state has the 1096 bits of
10_state.md R20. -/

namespace Sys2Proof.Machine

open Sys2Proof.Config

theorem word_is_phase_word : Word = BitVec PW := rfl
theorem word_is_frequency : Word = BitVec FW := rfl
theorem word_is_voltage : Word = BitVec VW := rfl
theorem word_is_dt : Word = BitVec DTW := rfl
theorem word_is_sample : Word = BitVec XW := rfl
theorem word_is_coefficient : Word = BitVec CW := rfl
theorem cmdWord_width : CmdWord = BitVec CMDW := rfl

/-- `K120` is `2^32 / 3` rounded to nearest (R8, 41_pwm_generator.md R131). -/
theorem K120_is_nearest_third : 3 * K120.toNat = 2 ^ PW - 1 := by decide

/-- Frequency times time step, brought to phase words, leaves `FF` fraction bits to drop (R105). -/
theorem phaseInc_shift : FF + DTF - PW = 16 := rfl

/-- The scale of the comparison, `2^46`, is that of voltage times sine (41_pwm_generator.md R141). -/
theorem comparison_scale : VF + SF = 46 := rfl

/-- A table interval holds `2^22` phase words (R139). -/
theorem sine_interval_bits : PW - SB = 22 := rfl

/-- The filter sum has 58 fraction bits, of which 30 are dropped (42_biquad_filter.md R167). -/
theorem filter_sum_scale : CF + XF = 58 ∧ CF + XF - XF = 30 := ⟨rfl, rfl⟩

/-- `1.0` of the sample format is the filter input for `+1` (R160, R169). -/
theorem leg_sample_is_one : Leg.sample .pos = 2 ^ XF ∧ Leg.sample .neg = -2 ^ XF := by decide

/-- The widths of 10_state.md R20 add up to its total. -/
theorem state_bits : 5 * FW + 5 * FW + 5 + 2 * PW + 5 * CW + 5 * CW + NPH * (4 * XW) + 1 + 2 = 1096 := rfl

end Sys2Proof.Machine
end

