-- ==== Sys2Proof/Laws/PerInstr.lean ====
section
/-! SUPPORT. Per-instruction laws of the encoding: the opcode field of a command's canonical word is its opcode, and its
unused bits are zero (30_encoding.md R75, R76). -/

namespace Sys2Proof.Laws.EncodeFields


/-- The canonical word of `i` carries `i`'s opcode, and no bit outside those `i` uses. -/
abbrev Statement (i : Instr) : Prop := opField (encode i) = opcode i ∧ encode i &&& usedBits i = encode i

theorem nop : Statement .nop := by decide

theorem ldd (sel : BitVec 4) (a : Word) : Statement (.ldd sel a) := by
  refine ⟨opField_cmdWord _ _ _ _, ?_⟩
  simp [encode, usedBits, cmdWord_and, opcode, word_and_full, sel_and_full]

theorem apply : Statement .apply := by decide

theorem advance (a : Word) : Statement (.advance a) := by
  refine ⟨opField_cmdWord _ _ _ _, ?_⟩
  simp [encode, usedBits, cmdWord_and, opcode, word_and_full, sel_and_full]

theorem sample : Statement .sample := by decide

theorem snapshot : Statement .snapshot := by decide

theorem gen (a b : Word) : Statement (.gen a b) := by
  refine ⟨opField_cmdWord _ _ _ _, ?_⟩
  simp [encode, usedBits, cmdWord_and, opcode, word_and_full, sel_and_full]

theorem ldc (sel : BitVec 4) (a : Word) : Statement (.ldc sel a) := by
  refine ⟨opField_cmdWord _ _ _ _, ?_⟩
  simp [encode, usedBits, cmdWord_and, opcode, word_and_full, sel_and_full]

theorem setcoef : Statement .setcoef := by decide

theorem fctl (a : Word) : Statement (.fctl a) := by
  refine ⟨opField_cmdWord _ _ _ _, ?_⟩
  simp [encode, usedBits, cmdWord_and, opcode, word_and_full, sel_and_full]

theorem proc : Statement .proc := by decide

theorem tick (a : Word) : Statement (.tick a) := by
  refine ⟨opField_cmdWord _ _ _ _, ?_⟩
  simp [encode, usedBits, cmdWord_and, opcode, word_and_full, sel_and_full]

end Sys2Proof.Laws.EncodeFields
end

