-- ==== Sys2Proof/Laws/RealSine.lean ====
section
/-! SUPPORT. The real sine as 41_pwm_generator.md R138 and R139 speak of it: its values at whole numbers of 1/1024 turn, within
a rational enclosure, and the error of the chord between two angles ("the usual bound for linear interpolation", R139). -/

namespace Sys2Proof.Laws.RealSine

/-- The rotation by 1/1024 turn, `k` times, as integers: cosine and sine to 20 digits, scaled by `(10^20)^k`. -/
def rotation : Nat → Int × Int
  | 0 => (1, 0)
  | k + 1 =>
    ((rotation k).1 * 99998117528260114265 - (rotation k).2 * 613588464915447535,
      (rotation k).1 * 613588464915447535 + (rotation k).2 * 99998117528260114265)

/-- The first terms of the exponential series on the imaginary axis. -/
theorem exp_series_eight (a : ℝ) :
    ∑ m ∈ Finset.range 8, ((a : ℂ) * Complex.I) ^ m / (m.factorial : ℂ) =
      ⟨1 - a ^ 2 / 2 + a ^ 4 / 24 - a ^ 6 / 720, a - a ^ 3 / 6 + a ^ 5 / 120 - a ^ 7 / 5040⟩ := by
  have h5 : Complex.I ^ 5 = Complex.I := by rw [show 5 = 4 + 1 from rfl, pow_add, Complex.I_pow_four]; simp
  have h6 : Complex.I ^ 6 = -1 := by rw [show 6 = 4 + 2 from rfl, pow_add, Complex.I_pow_four]; simp
  have h7 : Complex.I ^ 7 = -Complex.I := by rw [show 7 = 4 + 3 from rfl, pow_add, Complex.I_pow_four]; simp
  simp only [Finset.sum_range_succ, Finset.sum_range_zero, mul_pow, Complex.I_sq, Complex.I_pow_three, Complex.I_pow_four,
    h5, h6, h7]
  apply Complex.ext <;> simp [Nat.factorial, ← Complex.ofReal_pow] <;> ring

/-- The one step of the rotation is right to 17 digits. -/
theorem rotation_step_near :
    ‖Complex.exp ((Real.pi / 512 : ℝ) * Complex.I) - ⟨99998117528260114265 / 10 ^ 20, 613588464915447535 / 10 ^ 20⟩‖ ≤
      1 / 10 ^ 17 := by
  have h1 := Real.pi_gt_d20
  have h2 := Real.pi_lt_d20
  set a : ℝ := Real.pi / 512 with ha
  have lower : (0.00613592315154256491 : ℝ) < a := by rw [ha]; linarith
  have upper : a < (0.00613592315154256492 : ℝ) := by rw [ha]; linarith
  have hn : ‖(a : ℂ) * Complex.I‖ = a := by
    rw [norm_mul, Complex.norm_I, mul_one, Complex.norm_real, Real.norm_of_nonneg (by linarith)]
  have lo (n : ℕ) : (0.00613592315154256491 : ℝ) ^ n ≤ a ^ n := pow_le_pow_left₀ (by norm_num) lower.le n
  have up (n : ℕ) : a ^ n ≤ (0.00613592315154256492 : ℝ) ^ n := pow_le_pow_left₀ (by linarith) upper.le n
  have series := Complex.exp_bound (x := (a : ℂ) * Complex.I) (by rw [hn]; linarith) (n := 8) (by norm_num)
  rw [hn, exp_series_eight] at series
  have rest : a ^ 8 * (((8 : ℕ).succ : ℝ) * (((8 : ℕ).factorial : ℝ) * (8 : ℕ))⁻¹) ≤ 1 / 10 ^ 21 := by
    have := up 8
    norm_num [Nat.factorial] at this ⊢
    nlinarith
  have re : |1 - a ^ 2 / 2 + a ^ 4 / 24 - a ^ 6 / 720 - 99998117528260114265 / 10 ^ 20| ≤ 4 / 10 ^ 19 := by
    have := lo 2; have := up 2; have := lo 4; have := up 4; have := lo 6; have := up 6
    rw [abs_le]
    norm_num at *
    constructor <;> linarith
  have im : |a - a ^ 3 / 6 + a ^ 5 / 120 - a ^ 7 / 5040 - 613588464915447535 / 10 ^ 20| ≤ 4 / 10 ^ 19 := by
    have := lo 3; have := up 3; have := lo 5; have := up 5; have := lo 7; have := up 7
    rw [abs_le]
    norm_num at *
    constructor <;> linarith
  have poly := (Complex.norm_le_abs_re_add_abs_im
    ((⟨1 - a ^ 2 / 2 + a ^ 4 / 24 - a ^ 6 / 720, a - a ^ 3 / 6 + a ^ 5 / 120 - a ^ 7 / 5040⟩ : ℂ) -
      ⟨99998117528260114265 / 10 ^ 20, 613588464915447535 / 10 ^ 20⟩)).trans (add_le_add re im)
  refine (norm_sub_le_norm_sub_add_norm_sub _ _ _).trans ((add_le_add (series.trans rest) poly).trans ?_)
  norm_num

/-- The `k`-th power of the approximate step is the rational point of `rotation`. -/
theorem rotation_eq_pow (k : ℕ) :
    (⟨99998117528260114265 / 10 ^ 20, 613588464915447535 / 10 ^ 20⟩ : ℂ) ^ k =
      ⟨(rotation k).1 / (10 ^ 20) ^ k, (rotation k).2 / (10 ^ 20) ^ k⟩ := by
  induction k with
  | zero => apply Complex.ext <;> simp [rotation]
  | succ k ih =>
    rw [pow_succ, ih]
    apply Complex.ext
    · simp only [Complex.mul_re, rotation]
      push_cast
      field_simp
      ring
    · simp only [Complex.mul_im, rotation]
      push_cast
      field_simp
      ring

/-- Powers of two numbers of norm at most 1 drift apart no faster than linearly. -/
theorem pow_sub_pow_norm_le (z w : ℂ) (hz : ‖z‖ ≤ 1) (hw : ‖w‖ ≤ 1) (k : ℕ) : ‖z ^ k - w ^ k‖ ≤ k * ‖z - w‖ := by
  induction k with
  | zero => simp
  | succ k ih =>
    have split : z ^ (k + 1) - w ^ (k + 1) = z * (z ^ k - w ^ k) + (z - w) * w ^ k := by ring
    rw [split]
    refine (norm_add_le _ _).trans ?_
    rw [norm_mul, norm_mul, norm_pow]
    have h1 := mul_le_mul_of_nonneg_right hz (norm_nonneg (z ^ k - w ^ k))
    have h2 := mul_le_mul_of_nonneg_left (pow_le_one₀ (norm_nonneg w) hw : ‖w‖ ^ k ≤ 1) (norm_nonneg (z - w))
    push_cast
    linarith

/-- The sine of `k/1024` turn, to 17 digits less what `k` steps lose. -/
theorem sin_turn_near (k : ℕ) :
    |Real.sin (2 * Real.pi * k / 1024) - ((rotation k).2 : ℝ) / (10 ^ 20) ^ k| ≤ (k : ℝ) / 10 ^ 17 := by
  have hz : ‖Complex.exp ((Real.pi / 512 : ℝ) * Complex.I)‖ ≤ 1 := (Complex.norm_exp_ofReal_mul_I _).le
  have hw : ‖(⟨99998117528260114265 / 10 ^ 20, 613588464915447535 / 10 ^ 20⟩ : ℂ)‖ ≤ 1 := by
    rw [← sq_le_one_iff₀ (norm_nonneg _), ← Complex.normSq_eq_norm_sq, Complex.normSq_apply]
    norm_num
  have near := (pow_sub_pow_norm_le _ _ hz hw k).trans (mul_le_mul_of_nonneg_left rotation_step_near k.cast_nonneg)
  have im := (Complex.abs_im_le_norm _).trans near
  rw [← Complex.exp_nat_mul,
    show (k : ℂ) * (((Real.pi / 512 : ℝ) : ℂ) * Complex.I) = ((2 * Real.pi * k / 1024 : ℝ) : ℂ) * Complex.I by push_cast; ring,
    rotation_eq_pow, Complex.sub_im, Complex.exp_ofReal_mul_I_im] at im
  exact im.trans (by rw [mul_one_div])

/-- The sine bends by less than the square. -/
theorem convex_sq_add_mul_sin (c : ℝ) (hc : |c| ≤ 1) : ConvexOn ℝ Set.univ (fun x : ℝ => x ^ 2 / 2 + c * Real.sin x) := by
  have d1 : ∀ x : ℝ, HasDerivAt (fun x : ℝ => x ^ 2 / 2 + c * Real.sin x) (x + c * Real.cos x) x := fun x => by
    refine (((hasDerivAt_pow 2 x).div_const 2).add ((Real.hasDerivAt_sin x).const_mul c)).congr_deriv ?_
    norm_num
  have d2 : ∀ x : ℝ, HasDerivAt (fun x : ℝ => x + c * Real.cos x) (1 - c * Real.sin x) x := fun x => by
    refine ((hasDerivAt_id x).add ((Real.hasDerivAt_cos x).const_mul c)).congr_deriv ?_
    ring
  have e1 : deriv (fun x : ℝ => x ^ 2 / 2 + c * Real.sin x) = fun x => x + c * Real.cos x := funext fun x => (d1 x).deriv
  refine convexOn_univ_of_deriv2_nonneg (fun x => (d1 x).differentiableAt) (e1 ▸ fun x => (d2 x).differentiableAt) fun x => ?_
  rw [Function.iterate_succ, Function.iterate_one, Function.comp, e1, (d2 x).deriv]
  have bound : |c * Real.sin x| ≤ 1 := by
    rw [abs_mul]
    exact mul_le_one₀ hc (abs_nonneg _) (Real.abs_sin_le_one x)
  linarith [(abs_le.1 bound).2]

/-- The chord of the sine over an angle `h` misses it by at most `h^2 / 8` (R139: `(2π/1024)^2 / 8` for one table interval). -/
theorem sin_chord_error (a h t : ℝ) (t0 : 0 ≤ t) (t1 : t ≤ 1) :
    |Real.sin (a + t * h) - ((1 - t) * Real.sin a + t * Real.sin (a + h))| ≤ h ^ 2 / 8 := by
  have key (c : ℝ) (hc : |c| ≤ 1) :=
    (convex_sq_add_mul_sin c hc).2 (Set.mem_univ a) (Set.mem_univ (a + h)) (sub_nonneg.2 t1) t0 (by ring)
  have below := key 1 (by simp)
  have above := key (-1) (by simp)
  simp only [smul_eq_mul, show (1 - t) * a + t * (a + h) = a + t * h by ring] at below above
  have square : t * (1 - t) * h ^ 2 ≤ h ^ 2 / 4 := by nlinarith [sq_nonneg ((t - 1 / 2) * h)]
  rw [abs_le]
  constructor <;> nlinarith

end Sys2Proof.Laws.RealSine
end

