-- ==== Sys2Proof/Laws/Sine.lean ====
section
/-! SUPPORT. The sine table: its length, its check sum, and how far neighbours are apart (41_pwm_generator.md R138, R144). -/

namespace Sys2Proof.Machine

theorem sineTable_length : sineTable.length = 257 := by decide +kernel

/-- "the sum of all 257 entries is 175529032425" (R138). -/
theorem sineTable_sum : sineTable.sum = 175529032425 := by decide +kernel

/-- "the largest table difference is 6588356" (R144). -/
theorem qsin_step (i : Nat) (h : i < 1024) :
    -6588356 ≤ qsin (i + 1) - qsin i ∧ qsin (i + 1) - qsin i ≤ 6588356 := by
  have key : ∀ i ∈ List.range 1024, -6588356 ≤ qsin (i + 1) - qsin i ∧ qsin (i + 1) - qsin i ≤ 6588356 := by
    decide +kernel
  exact key i (List.mem_range.2 h)

/-- The circle closes: the table's end is its start. -/
theorem qsin_closes : qsin 1024 = qsin 0 := by decide +kernel

/-- The interval and the position are the bit fields `p[31:22]` and `p[21:0]` (R139). -/
theorem sine_fields (p : Word) :
    (p.extractLsb' 22 10).toNat = sineInterval p ∧ (p.extractLsb' 0 22).toNat = sinePosition p := by
  have := p.isLt
  simp [sineInterval, sinePosition, BitVec.extractLsb'_toNat, Nat.shiftRight_eq_div_pow]
  omega

theorem sineInterval_lt (p : Word) : sineInterval p < 1024 := by
  have := p.isLt
  simp only [sineInterval]
  omega

theorem sinePosition_lt (p : Word) : sinePosition p < 2 ^ 22 := Nat.mod_lt _ (by decide)

end Sys2Proof.Machine
end

