-- ==== Sys2Proof/Tests/Slice0.lean ====
section
/-! SUPPORT. Tests. Every expected value is from the spec: the section of 95_test_vectors.md or the rule is named at the test.
The `witness_` theorems show, for every statement that has hypotheses, states and operands that meet them. -/

open Sys2Proof Sys2Proof.Machine

namespace Sys2Proof.Tests

/-- The state a step or a command answers. -/
def after (o : Host.Outcome State Fault Refusal) : Option State :=
  match o with
  | .next t => some t
  | .fault _ => none
  | .refused _ => none

theorem next_of_after {o : Host.Outcome State Fault Refusal} {t : State} (h : after o = some t) : o = .next t := by
  cases o with
  | next u => cases h; rfl
  | fault r => cases h
  | refused r => cases h

/-- 50 Hz, voltage 1.0, carrier 1000 Hz, asynchronous: the premise of the examples of R103, R110 and R172. -/
def fiftyHertz : State := { State.reset with p := ⟨0x00320000, 0x00010000, 0, 0x03E80000, 0⟩ }

/-- The reset state with a pulse mode and a voltage. -/
def inMode (pmode volt : Word) : State := { State.reset with p := ⟨0, volt, 0, 0, pmode⟩ }

/-- Filters enabled with some coefficients, `P1`, so that the legs are +1, -1, +1 (program C). -/
def filtering (c : Coefs) : State := { State.reset with p := ⟨0, 0, 0, 0, 1⟩, c := c, fen := true }

/-- The coefficients of the saturation trace of section 4.1. -/
def saturating : Coefs := ⟨0x7FFFFFFF, 0x7FFFFFFF, 0x7FFFFFFF, 0x80000000, 0⟩

/-! ## WellFormed: R74, R76 -/

theorem test_wf_ldd : wellFormed (.ldd 4 0) = true ∧ wellFormed (.ldd 5 0) = false ∧ wellFormed (.ldd 15 0) = false := by decide
theorem test_wf_ldc : wellFormed (.ldc 4 0) = true ∧ wellFormed (.ldc 5 0) = false ∧ wellFormed (.ldc 15 0) = false := by decide

/-! ## Decode: section 2.1 -/

theorem test_decode_nop : decode 0x000000000000000000 = .ok .nop ∧ decode 0x0FFFFFFFFFFFFFFFFF = .ok .nop := by
  exact ⟨rfl, rfl⟩
theorem test_decode_ldd : decode 0x100000000000320000 = .ok (.ldd 0 0x00320000) ∧
    decode 0x14FFFFFFFF00000002 = .ok (.ldd 4 2) := ⟨rfl, rfl⟩
theorem test_decode_apply : decode 0x2A1234567889ABCDEF = .ok .apply := rfl
theorem test_decode_advance : decode 0x3000000000FFFEA27A = .ok (.advance 0xFFFEA27A) := rfl
theorem test_decode_sample : decode 0x400000000000000000 = .ok .sample := rfl
theorem test_decode_snapshot : decode 0x500000000000000000 = .ok .snapshot := rfl
theorem test_decode_gen : decode 0x607FFFFFFF40000000 = .ok (.gen 0x40000000 0x7FFFFFFF) := rfl
theorem test_decode_ldc : decode 0x7300000000977DAA47 = .ok (.ldc 3 0x977DAA47) := rfl
theorem test_decode_setcoef : decode 0x800000000000000000 = .ok .setcoef := rfl
theorem test_decode_fctl : decode 0x900000000080000000 = .ok (.fctl 0x80000000) := rfl
theorem test_decode_proc : decode 0xA00000000000000000 = .ok .proc := rfl
theorem test_decode_tick : decode 0xB00000000000015D86 = .ok (.tick 0x00015D86) := rfl

/-- The illegal words of sections 2.1 and 5. -/
def illegalWords : List CmdWord :=
  [0x150000000000000000, 0x1F0000000000000000, 0x750000000000000001, 0x7F00000000FFFFFFFF, 0xC00000000000000000,
    0xD00000000000000000, 0xE00000000000000000, 0xF00000000000000000, 0xFFFFFFFFFFFFFFFFFF]

theorem test_decode_illegal : illegalWords.all (fun w => (decodeTableWord 72 w.toNat).isNone) = true := by decide +kernel

/-- R86. -/
theorem test_encode : encode (.ldd 0 0x00320000) = 0x100000000000320000 ∧ encode (.gen 0x40000000 0x7FFFFFFF) = 0x607FFFFFFF40000000 ∧
    encode (.ldc 3 0xE0000000) = 0x7300000000E0000000 ∧ encode (.tick 0x00015D86) = 0xB00000000000015D86 := by decide

/-! ## The assembler: R84, R85, programs A and C -/

theorem test_assemble_command : Asm.assemble "LDD   PMODE, P3   ; a comment".toList = some [0x140000000000000002] ∧
    Asm.assemble "GEN 0x40000000, 0x7FFFFFFF".toList = some [0x607FFFFFFF40000000] ∧
    Asm.assemble "ADVANCE -89478".toList = some [0x3000000000FFFEA27A] ∧
    Asm.assemble "LDC A1, 0xE0000000".toList = some [0x7300000000E0000000] ∧
    Asm.assemble "TICK 0x00015d86".toList = some [0xB00000000000015D86] ∧
    Asm.assemble "TOCK 1".toList = none ∧ Asm.assemble "TICK 15D86".toList = none ∧ Asm.assemble "TICK 0x".toList = none := by decide +kernel

theorem test_assemble_pseudo : Asm.assemble "SETP PMODE=P1, FREQ=0x00320000".toList =
      some [0x100000000000320000, 0x140000000000000001, 0x200000000000000000] ∧
    Asm.assemble "SETFILT 0x10000000, 0x20000000, 0x10000000, 0xE0000000, 0x10000000".toList =
      some [0x700000000010000000, 0x710000000020000000, 0x720000000010000000, 0x7300000000E0000000, 0x740000000010000000,
        0x800000000000000000] ∧
    Asm.assemble "FON".toList = some [0x900000000000000001] := by decide +kernel

/-! ## The pure functions -/

/-- Section 3.1. -/
theorem test_sin : [sin 0x00000001, sin 0x0AAAAAAA, sin 0x3FFFFFFF, sin 0x40000001, sin 0x80000001, sin 0xAAAAAAAB, sin 0xFFFFFFFF] =
    [1, 277903672, 1073741823, 1073741823, -2, -929883809, -2] := by decide +kernel

/-- R138: the sum of all 257 entries. -/
theorem test_sine_table : sineTable.length = 257 ∧ sineTable.sum = 175529032425 := by decide +kernel

/-- Section 3.2. -/
theorem test_tri : [tri 0x00000001, tri 0x7FFFFFFF, tri 0x80000000, tri 0x80000001, tri 0xFFFFFFFF] =
    [-70368744112128, 70368744112128, 70368744177664, 70368744112128, -70368744112128] := by decide

/-- Section 3.3, the fifth, sixth and seventeenth row. -/
theorem test_generate_async : generate 0x40000000 0x7FFFFFFF 0x00010000 0 = ⟨.pos, .neg, .neg, 0x40000000⟩ ∧
    generate 0x40000000 0x80000000 0x00010000 0 = ⟨.neg, .neg, .neg, 0x40000000⟩ ∧
    generate 0xC0000000 0x00000000 0xFFFFFFFF 0 = ⟨.neg, .pos, .pos, 0xC0000000⟩ := by decide +kernel

/-- Section 3.5: modes `P3`, `P5`, `P27`, `P45`. -/
theorem test_generate_sync : generate 0x15555555 0 0x00010000 2 = ⟨.pos, .neg, .pos, 0x15555555⟩ ∧
    generate 0x33333333 0 0x00008000 3 = ⟨.pos, .neg, .neg, 0x33333333⟩ ∧
    generate 0x12345678 0 0x0000CCCD 9 = ⟨.pos, .neg, .pos, 0x12345678⟩ ∧
    generate 0x01000000 0x9ABCDEF0 0x00010000 10 = ⟨.pos, .neg, .pos, 0x01000000⟩ := by decide +kernel

/-- Section 3.4: tags 1, 11 and a reserved one. -/
theorem test_generate_square : generate 0x2AAAAAAA 0 0 1 = ⟨.pos, .neg, .pos, 0x2AAAAAAA⟩ ∧
    generate 0x2AAAAAAB 0 0x00010000 11 = ⟨.pos, .neg, .neg, 0x2AAAAAAB⟩ ∧
    generate 0x80000000 0x9ABCDEF0 0xFFFFFFFF 0xDEADBEEF = ⟨.neg, .pos, .neg, 0x80000000⟩ := by decide +kernel

/-- Section 4.1: the rounding of halves. -/
theorem test_process_rounds : (process ⟨2, 0, 0, 0, 0⟩ Hist.zero (2 ^ 28)).y = 1 ∧ (process ⟨2, 0, 0, 0, 0⟩ Hist.zero (-2 ^ 28)).y = 0 ∧
    (process ⟨3, 0, 0, 0, 0⟩ Hist.zero (-2 ^ 28)).y = -1 := by decide +kernel

/-- Section 4.1: the row `n` = 4 of the third trace, all five coefficients. -/
theorem test_process_all : process ⟨0x10000000, 0x20000000, 0x10000000, 0xE0000000, 0x10000000⟩
      ⟨0xF0000000, 0x10000000, 0x0F800000, 0x16000000⟩ (-2 ^ 28) =
    ⟨-96468992, ⟨0xF0000000, 0xF0000000, 0xFA400000, 0x0F800000⟩, false⟩ := by decide +kernel

/-- Section 4.1: saturation at both ends. -/
theorem test_process_saturates : process saturating ⟨0x10000000, 0, 0x20000000, 0⟩ (2 ^ 28) =
      ⟨2147483647, ⟨0x10000000, 0x10000000, 0x7FFFFFFF, 0x20000000⟩, true⟩ ∧
    process saturating ⟨0xF0000000, 0, 0xE0000000, 0⟩ (-2 ^ 28) =
      ⟨-2147483647, ⟨0xF0000000, 0xF0000000, 0x80000001, 0xE0000000⟩, false⟩ := by decide +kernel

/-! ## The commands, one step each -/

/-- R100. -/
theorem test_nop : after (exec .nop fiftyHertz) = some { fiftyHertz with rsp := .none } := by decide

/-- R102: the example, and a reserved selector. -/
theorem test_ldd : after (exec (.ldd 1 0x00008000) State.reset) =
    some { State.reset with d := ⟨0, 0x00008000, 0, 0, 0⟩, dmask := 0b00010 } := by decide
theorem test_ldd_reserved : after (exec (.ldd 5 7) State.reset) = some { State.reset with ill := true } := by decide

/-- R103: the example, with a value in the one field that is absent. -/
theorem test_apply : after (exec .apply { State.reset with d := ⟨0x00320000, 0x00010000, 9, 0x03E80000, 0⟩, dmask := 0b11011 }) =
    some { fiftyHertz with d := ⟨0x00320000, 0x00010000, 9, 0x03E80000, 0⟩ } := by decide

/-- Section 2.3: a step backwards, and the floor of a negative product beside the largest one. -/
theorem test_advance_back : after (exec (.advance 0xFFFEA27A) fiftyHertz) =
    some { fiftyHertz with th := 0xFFBBBBD4, ct := 0xFAAAAC90 } := by decide
theorem test_advance_floor : (after (exec (.advance 0xFFFFFFFD) { State.reset with p := ⟨0x00018000, 0, 0, 0x00018000, 0⟩ })).map
      (fun t => (t.th, t.ct)) = some (0xFFFFFFFB, 0xFFFFFFFB) ∧
    (after (exec (.advance 0x7FFFFFFF) { State.reset with p := ⟨0xFFFFFFFF, 0, 0, 0xFFFFFFFF, 0⟩ })).map
      (fun t => (t.th, t.ct)) = some (0xFFFE8000, 0xFFFE8000) := by decide

/-- R211. -/
theorem test_sample : (after (exec .sample State.reset)).map State.rsp = some (.pwm 1 1 1 0) := by decide +kernel

/-- R110: the example. -/
theorem test_snapshot : (after (exec .snapshot { fiftyHertz with th := 0x0044442C, ct := 0x05555370 })).map State.rsp =
    some (.snap 0x00320000 0x00010000 0 0x03E80000 0 0x0044442C 0x05555370) := by decide

/-- R145: the example; and program D step 11. -/
theorem test_gen : (after (exec (.gen 0x40000000 0x7FFFFFFF) (inMode 0 0x00010000))).map State.rsp =
    some (.pwm 1 0 0 0x40000000) := by decide +kernel
theorem test_gen_half : (after (exec (.gen 0x40000000 0x7FFFFFFF) (inMode 0 0x00008000))).map State.rsp =
    some (.pwm 0 0 0 0x40000000) := by decide +kernel

/-- R161: program C step 4, and a reserved selector. -/
theorem test_ldc : after (exec (.ldc 3 0xE0000000) State.reset) = some { State.reset with dc := ⟨0, 0, 0, 0xE0000000, 0⟩ } := by decide
theorem test_ldc_reserved : after (exec (.ldc 15 7) State.reset) = some { State.reset with ill := true } := by decide

/-- R162: all five are copied; the history stays (program C step 19). -/
theorem test_setcoef : after (exec .setcoef { filtering ⟨1, 2, 3, 4, 5⟩ with dc := ⟨0x40000000, 0, 0, 0, 0⟩ }) =
    some { filtering ⟨0x40000000, 0, 0, 0, 0⟩ with dc := ⟨0x40000000, 0, 0, 0, 0⟩ } := by decide

/-- R164, section 2.1. -/
theorem test_fctl : (after (exec (.fctl 0x80000000) State.reset)).map State.fen = some true ∧
    (after (exec (.fctl 0) (filtering Coefs.zero))).map State.fen = some false := by decide

/-- Program C step 10. -/
theorem test_proc : after (exec .proc (filtering ⟨0x10000000, 0x20000000, 0x10000000, 0xE0000000, 0x10000000⟩)) =
    some { filtering ⟨0x10000000, 0x20000000, 0x10000000, 0xE0000000, 0x10000000⟩ with
      h := ⟨⟨0x10000000, 0, 0x04000000, 0⟩, ⟨0xF0000000, 0, 0xFC000000, 0⟩, ⟨0x10000000, 0, 0x04000000, 0⟩⟩
      rsp := .filt 1 0 1 0 0x04000000 0xFC000000 0x04000000 } := by decide +kernel

/-- Program C step 22: bypass, the history frozen. -/
theorem test_proc_bypass : after (exec .proc { filtering saturating with fen := false }) =
    some { filtering saturating with fen := false, rsp := .filt 1 0 1 0 0x10000000 0xF0000000 0x10000000 } := by decide +kernel

/-- R172: the example. -/
theorem test_tick : after (exec (.tick 0x00015D86) fiftyHertz) = some { fiftyHertz with
    th := 0x0044442C, ct := 0x05555370, rsp := .filt 1 1 1 0 0x10000000 0x10000000 0x10000000 } := by decide +kernel

/-- Section 4.1, saturation: `SAT` is set by leg U alone, at its second sample. -/
theorem test_tick_saturates : (after (exec (.tick 0) { filtering saturating with
      h := ⟨⟨0x10000000, 0, 0x20000000, 0⟩, ⟨0xF0000000, 0, 0xE0000000, 0⟩, Hist.zero⟩ })).map
    (fun t => (t.sat, t.status, t.rsp)) = some (true, 0b10, .filt 1 0 1 0 0x7FFFFFFF 0x80000001 0x20000000) := by decide +kernel

/-! ## The ports -/

/-- R80: an illegal word between two legal ones, program D step 7. -/
theorem test_step_illegal : after (step (fiftyHertz.present 0x170000000000001234)) =
    some { fiftyHertz with ill := true, rsp := .none } := by decide

/-- R210: a word presented at a reset edge is not accepted. -/
theorem test_step_reset : after (step { fiftyHertz with ill := true, pins := [⟨true, true, 0x400000000000000000⟩] }) =
    some State.reset := by decide

/-- R202. -/
theorem test_step_idle : after (step { fiftyHertz with pins := [⟨false, false, 0x400000000000000000⟩] }) =
    some { fiftyHertz with pins := [], rsp := .none } := by decide

/-- The word of a table row, presented, is the next command. -/
theorem test_step_fetch : decodeTableWord 72 0x300000000000000007 = some (.advance 7) ∧
    after (step (State.reset.withFetchWord 72 0x600000000000000000)) = after (exec (.gen 0 0) State.reset) := by decide +kernel

/-! ## Witnesses: the hypotheses of the statements can be met -/

/-- A word for each opcode, with all unused bits set where the command has some (R75). -/
theorem witness_opcodes : (opField 0x0FFFFFFFFFFFFFFFFF = 0x0 ∧ opField 0x14FFFFFFFF00000002 = 0x1 ∧ opField 0x2A1234567889ABCDEF = 0x2) ∧
    (opField 0x3000000000FFFEA27A = 0x3 ∧ opField 0x4FFFFFFFFFFFFFFFFF = 0x4 ∧ opField 0x500000000000000000 = 0x5) ∧
    (opField 0x607FFFFFFF40000000 = 0x6 ∧ opField 0x7300000000977DAA47 = 0x7 ∧ opField 0x800000000000000000 = 0x8) ∧
    (opField 0x900000000000000001 = 0x9 ∧ opField 0xA00000000000000000 = 0xA ∧ opField 0xB00000000000015D86 = 0xB) := by decide

theorem witness_ResetEdgeRestoresResetState :
    ({ fiftyHertz with pins := [⟨true, true, 0⟩, ⟨false, false, 0⟩] } : State).pins = ⟨true, true, 0⟩ :: [⟨false, false, 0⟩] := rfl

theorem witness_IdleEdgeHoldsState : fiftyHertz.pins = [] ∧
    ({ fiftyHertz with pins := [⟨false, false, 0x4⟩] } : State).pins = ⟨false, false, 0x4⟩ :: [] := ⟨rfl, rfl⟩

theorem witness_StepExecutesDecodedCommand :
    (fiftyHertz.present 0xB00000000000015D86).pins = PortIn.word 0xB00000000000015D86 :: [] ∧
    decode 0xB00000000000015D86 = .ok (.tick 0x00015D86) := ⟨rfl, rfl⟩

theorem witness_PresentedTableWordRuns : decodeTableWord 72 0xB00000000000015D86 = some (.tick 0x00015D86) := rfl

/-- Each way for a word to be illegal, at both ends of its range. -/
theorem witness_IllegalWordSetsIllOnly :
    (fiftyHertz.present 0xC00000000000000000).pins = PortIn.word 0xC00000000000000000 :: [] ∧
    IllegalWord 0xC00000000000000000 ∧ IllegalWord 0xFFFFFFFFFFFFFFFFFF ∧ IllegalWord 0x150000000000000000 ∧
    IllegalWord 0x1F0000000000000000 ∧ IllegalWord 0x750000000000000001 ∧ IllegalWord 0x7F00000000FFFFFFFF := by
  refine ⟨rfl, ?_, ?_, ?_, ?_, ?_, ?_⟩ <;> unfold IllegalWord <;> decide

theorem witness_WordsExecuteInOrder :
    ({ fiftyHertz with pins := [⟨false, true, 0xB00000000000015D86⟩, ⟨false, true, 0xC00000000000000000⟩] } : State).pins =
      [0xB00000000000015D86, 0xC00000000000000000].map PortIn.word ++ [] := rfl

theorem witness_DecodeOfEncode : wellFormed (.ldd 0 0) = true ∧ wellFormed (.ldd 4 0xFFFFFFFF) = true ∧
    wellFormed (.ldc 4 1) = true ∧ wellFormed (.gen 1 2) = true := by decide

theorem witness_DecoderRejectsExactlyIllegalWords : decode 0xC00000000000000000 = .error (.reservedOpcode 0xC) ∧
    decode 0x750000000000000001 = .error (.reservedSelector 7 5) ∧ decode 0x14FFFFFFFF00000002 = .ok (.ldd 4 2) := ⟨rfl, rfl, rfl⟩

/-- Selectors at the ends of the defined and of the reserved range, in words and as operands. -/
theorem witness_LddLoadsOneFieldOrFlagsIll : (opField 0x100000000000000000 = 0x1 ∧ (selField 0x100000000000000000).toNat ≤ 4) ∧
    (opField 0x140000000000000000 = 0x1 ∧ (selField 0x140000000000000000).toNat ≤ 4) ∧
    (opField 0x150000000000000000 = 0x1 ∧ 5 ≤ (selField 0x150000000000000000).toNat) ∧
    (5 ≤ (5 : BitVec 4).toNat ∧ 5 ≤ (15 : BitVec 4).toNat) := by decide

theorem witness_LdcLoadsOneCoefficientOrFlagsIll : (opField 0x700000000000000000 = 0x7 ∧ (selField 0x700000000000000000).toNat ≤ 4) ∧
    (opField 0x740000000000000000 = 0x7 ∧ (selField 0x740000000000000000).toNat ≤ 4) ∧
    (opField 0x7F0000000000000000 = 0x7 ∧ 5 ≤ (selField 0x7F0000000000000000).toNat) ∧
    (5 ≤ (5 : BitVec 4).toNat ∧ 5 ≤ (15 : BitVec 4).toNat) := by decide

theorem witness_FctlEnablesOnNonzero : (0x80000000 : Word) ≠ 0 ∧ (1 : Word) ≠ 0 := by decide

/-- Both clauses: at 1.5 Hz the two steps of R106(d) sum to a step of 0; at 50 Hz the frequency is whole. -/
theorem witness_SplitAdvanceStaysWithinStepCount :
    ∃ s t t' : State, ([3, 0xFFFFFFFD] : List Word) ≠ [] ∧ (([3, 0xFFFFFFFD] : List Word).map BitVec.toInt).sum = (0 : Word).toInt ∧
      execAll ([3, 0xFFFFFFFD].map Instr.advance) s = .next t ∧ exec (.advance 0) s = .next t' ∧
      s.p.freq.toNat % 2 ^ 16 ≠ 0 ∧ s.p.cfreq.toNat % 2 ^ 16 = 0 := by
  refine ⟨{ State.reset with p := ⟨0x00018000, 0, 0, 0x03E80000, 0⟩ }, _, _, ?_, ?_, rfl, rfl, ?_, ?_⟩ <;> decide

theorem witness_WholeHertzAdvanceIsUndone : fiftyHertz.p.freq.toNat % 2 ^ 16 = 0 ∧ fiftyHertz.p.cfreq.toNat % 2 ^ 16 = 0 := by decide

theorem witness_OneHertzAdvanceAddsOperand :
    (∃ s : State, s.p.freq = 0x00010000 ∧ s.p.cfreq = 0) ∧ (∃ s : State, s.p.freq = 0 ∧ s.p.cfreq = 0x00010000) :=
  ⟨⟨{ State.reset with p := ⟨0x00010000, 0, 0, 0, 0⟩ }, rfl, rfl⟩, ⟨{ State.reset with p := ⟨0, 0, 0, 0x00010000, 0⟩ }, rfl, rfl⟩⟩

theorem witness_GenRespondsComparatorOutput : decodePmode (inMode 1 0).p.pmode ≠ .async ∧ decodePmode (inMode 10 0).p.pmode ≠ .async := by
  decide

theorem witness_SyncLegComparesWithLockedCarrier :
    ((10 : Word), (45 : Word)) ∈ [((2 : Word), (3 : Word)), (3, 5), (4, 7), (5, 9), (6, 11), (7, 13), (8, 15), (9, 27), (10, 45)] ∧
    comparePhase 0x15555555 0 0x00010000 2 = .pos ∧ comparePhase 0xC0000000 0 0x00010000 2 = .neg := by decide +kernel

theorem witness_SquareWaveLegIsTopBit : ((1 : Word).toNat = 1 ∨ 11 ≤ (1 : Word).toNat) ∧ ((11 : Word).toNat = 1 ∨ 11 ≤ (11 : Word).toNat) ∧
    ((0xFFFFFFFF : Word).toNat = 1 ∨ 11 ≤ (0xFFFFFFFF : Word).toNat) := by decide

theorem witness_SineInterpolatesRoundedSine : 0 ≤ 256 ∧ 256 ≤ 256 := by decide

/-- The ends of the two half turns, and one rising and one falling interval. -/
theorem witness_SineHasStatedProperties : ((0 : Word).toNat ≤ 2 ^ 31 ∧ (0x80000000 : Word).toNat ≤ 2 ^ 31) ∧
    (2 ^ 31 ≤ (0x80000000 : Word).toNat ∧ 2 ^ 31 ≤ (0xFFFFFFFF : Word).toNat) ∧
    (sineInterval 0 = sineInterval 0x003FFFFF ∧ sinePosition 0 ≤ sinePosition 0x003FFFFF ∧
      qsin (sineInterval 0) ≤ qsin (sineInterval 0 + 1)) ∧
    (sineInterval 0x40000000 = sineInterval 0x40000001 ∧ sinePosition 0x40000000 ≤ sinePosition 0x40000001 ∧
      qsin (sineInterval 0x40000000 + 1) ≤ qsin (sineInterval 0x40000000)) := by decide +kernel

/-- Both clauses in `P3`, at the largest voltage the statement allows and at voltage 1.0 (section 3.6). -/
theorem witness_SyncLegChangesOneWayPerHalf : (decodePmode 2 = .sync 3 ∧ 3 ≤ 3 ∧ (98303 : Word).toNat < 3 * 2 ^ 15) ∧
    ((lockedCarrier 0x26AD5DA8 3).toNat + 3 < 2 ^ 31 ∧ comparePhase 0x26AD5DA8 0 0x00010000 2 = .neg) ∧
    (2 ^ 31 ≤ (lockedCarrier 0x2CF485D3 3).toNat ∧ (lockedCarrier 0x2CF485D3 3).toNat + 3 < 2 ^ 32 ∧
      comparePhase 0x2CF485D3 0 0x00010000 2 = .pos) := by decide +kernel

/-- Section 3.6: the six changes of `P3` at voltage 1.0. -/
theorem witness_SyncLegChangesAtMostTwiceN : decodePmode 2 = .sync 3 ∧ (0x00010000 : Word).toNat < 3 * 2 ^ 15 ∧
    ([0x26AD5DA8, 0x2CF485D3, 0x71E6E586, 0xA6AD5DA9, 0xACF485D2, 0xF1E6E586] : List Word).Nodup ∧
    ∀ th ∈ ([0x26AD5DA8, 0x2CF485D3, 0x71E6E586, 0xA6AD5DA9, 0xACF485D2, 0xF1E6E586] : List Word), ChangesAt 2 0x00010000 th := by
  refine ⟨by decide, by decide, by decide, ?_⟩
  simp only [List.forall_mem_cons, ChangesAt]
  refine ⟨?_, ?_, ?_, ?_, ?_, ?_, fun _ h => (List.not_mem_nil h).elim⟩ <;> decide +kernel

theorem witness_ExactResultsFitStatedWidths : 0 < 1024 ∧ 1023 < 1024 := by decide

theorem witness_FilterSumFitsAccumulator : (-2 ^ 31 ≤ (-2 ^ 31 : Int) ∧ (-2 ^ 31 : Int) < 2 ^ 31) ∧
    (-2 ^ 31 ≤ (2 ^ 31 - 1 : Int) ∧ (2 ^ 31 - 1 : Int) < 2 ^ 31) := by decide

theorem witness_UnclampedOutputWithinHalfUnit :
    (process ⟨0x7FFFFFFF, 0x7FFFFFFF, 0x7FFFFFFF, 0x80000000, 0⟩ ⟨0xF0000000, 0, 0xE0000000, 0⟩ (s32 0xF0000000)).clamped = false := by
  decide +kernel

theorem witness_ProcFiltersOrBypassesLegs : (filtering saturating).fen = true ∧ State.reset.fen = false := ⟨rfl, rfl⟩

theorem witness_LegsDoNotReadEachOthersHistory : ∃ (s t t' : State) (b : Bank), s.fen = true ∧ b ≠ s.h ∧ b.get .u = s.h.get .u ∧
    exec .proc s = .next t ∧ exec .proc { s with h := b } = .next t' :=
  ⟨filtering saturating, _, _, ⟨Hist.zero, ⟨1, 2, 3, 4⟩, ⟨5, 6, 7, 8⟩⟩, rfl, by decide, rfl, exec_eq _ _, exec_eq _ _⟩

theorem witness_CommandsWriteOnlyTheirRegisters : ∃ t, exec (.tick 1) (filtering saturating) = .next t ∧
    Reg.fen ∉ mayWrite (filtering saturating).fen (.tick 1) ∧ Reg.sat ∈ mayWrite (filtering saturating).fen (.tick 1) :=
  ⟨_, exec_eq _ _, by decide, by decide⟩

/-- Two states that differ in registers that `TICK` does not read with the filters disabled. -/
theorem witness_CommandsReadOnlyTheirRegisters : ∃ s s' t t' : State, s ≠ s' ∧ (∀ r ∈ mayRead s.fen (.tick 1), SameReg s s' r) ∧
    exec (.tick 1) s = .next t ∧ exec (.tick 1) s' = .next t' := by
  refine ⟨fiftyHertz, { fiftyHertz with c := saturating, d := ⟨1, 2, 3, 4, 5⟩ }, _, _, by decide, ?_, exec_eq _ _, exec_eq _ _⟩
  simp [mayRead, fiftyHertz, State.reset, SameReg]

/-- Both flags set, and a step. -/
theorem witness_FlagsAreStickyUntilReset : ∃ s t : State, step s = .next t ∧ (∀ e rest, s.pins = e :: rest → e.rst = false) ∧
    s.ill = true ∧ s.sat = true := by
  refine ⟨({ fiftyHertz with ill := true, sat := true } : State).present 0xB00000000000015D86, _, next_of_after rfl, ?_, rfl, rfl⟩
  intro e rest h
  cases h
  rfl

/-- Leg U's filter one sample before the clamp of section 4.1, and the same state after it. -/
def beforeClamp : State := { filtering saturating with h := ⟨⟨0x10000000, 0, 0x20000000, 0⟩, Hist.zero, Hist.zero⟩ }
def afterClamp : State := { filtering saturating with
  h := ⟨⟨0x10000000, 0x10000000, 0x7FFFFFFF, 0x20000000⟩, ⟨0xF0000000, 0, 0xE0000000, 0⟩, ⟨0x10000000, 0, 0x20000000, 0⟩⟩
  sat := true
  rsp := .filt 1 0 1 0 0x7FFFFFFF 0xE0000000 0x20000000 }

/-- An illegal word sets `ILL`; a `PROC` that clamps leg U sets `SAT`. -/
theorem witness_FlagsAreSetOnlyByTheirCauses :
    (∃ s t : State, step s = .next t ∧ s.ill = false ∧ t.ill = true) ∧ (∃ s t : State, step s = .next t ∧ s.sat = false ∧ t.sat = true) :=
  ⟨⟨fiftyHertz.present 0xC00000000000000000, _, next_of_after rfl, rfl, rfl⟩,
    ⟨beforeClamp.present 0xA00000000000000000, afterClamp, next_of_after (by decide +kernel), rfl, rfl⟩⟩

theorem witness_RepeatableCommandsAreIdempotent : ∃ s t : State, Repeatable .apply ∧ exec .apply s = .next t ∧ s.p ≠ t.p :=
  ⟨{ State.reset with d := ⟨1, 2, 3, 4, 5⟩, dmask := 0b00100 }, _, trivial, exec_eq _ _, by decide⟩

theorem witness_PhaseParameterIsOnlyForSnapshot : ∃ s s' t t' : State, s ≠ s' ∧ Instr.sample ≠ .snapshot ∧ s.blotPhase = s'.blotPhase ∧
    exec .sample s = .next t ∧ exec .sample s' = .next t' :=
  ⟨fiftyHertz, { fiftyHertz with p := { fiftyHertz.p with phase := 7 } }, _, _, by decide, by decide, rfl, exec_eq _ _, exec_eq _ _⟩

/-- A pending push and filters that have run once. -/
def running : State := { filtering saturating with
  d := ⟨0x00320000, 0, 0, 0, 1⟩
  dmask := 0b00001
  h := ⟨⟨0x10000000, 0, 0x20000000, 0⟩, ⟨0xF0000000, 0, 0xE0000000, 0⟩, ⟨0x10000000, 0, 0x20000000, 0⟩⟩
  pins := [PortIn.word 0xA00000000000000000] }

theorem witness_StepKeepsInvariant : ∃ t, Inv running ∧ step running = .next t := by
  refine ⟨_, ⟨?_, ?_, ?_⟩, next_of_after rfl⟩
  · intro f
    cases f <;> decide
  · intro k
    right
    cases k <;> unfold LegInput <;> decide
  · intro k l
    cases k <;> cases l <;> decide

end Sys2Proof.Tests
end

/-! PROOFS. 00_scope.md R7: a step with a word at the port. -/
namespace Sys2Proof.Machine

/-- An edge with a word at the port takes it off the inputs and accepts it (20_memory.md R53). -/
theorem nextEdge_word {s : State} {w : CmdWord} {rest : List PortIn} (h : s.pins = PortIn.word w :: rest) :
    nextEdge s = acceptWord w { s with pins := rest } := by
  simp [nextEdge, h, PortIn.word]

/-- A step with a word at the port is the effect of that word (20_memory.md R53, R60). -/
theorem step_word {s : State} {w : CmdWord} {rest : List PortIn} (h : s.pins = PortIn.word w :: rest) :
    step s = execWord w { s with pins := rest } := by
  rw [step, nextEdge_word h, acceptWord, execWord]
  cases decode w with
  | ok i => rfl
  | error e => rfl

/-- The effect of a word that decodes is that of its command. -/
theorem execWord_of_decode {w : CmdWord} {i : Instr} (h : decode w = .ok i) (s : State) : execWord w s = exec i s := by
  rw [execWord, h]

/-- Settles O5: the step is the effect of the word, which is that of the command it decodes to. -/
theorem stepExecutesDecodedCommand : Obligations.StepExecutesDecodedCommand := by
  intro s w rest i hpins hdec
  rw [step_word hpins, execWord_of_decode hdec]

end Sys2Proof.Machine

/-! PROOFS. 00_scope.md R9: the six formats. Scaling up undoes scaling down, so each conversion rounds an integer. -/
namespace Sys2Proof.Machine

theorem wordOfTurns_turns (x : Word) : wordOfTurns (turns x) = x := by
  rw [wordOfTurns, turns, div_mul_cancel₀ _ (by positivity), Int.floor_natCast, u32_natCast]

theorem wordOfHertz_hertz (x : Word) : wordOfHertz (hertz x) = x := by
  rw [wordOfHertz, hertz, div_mul_cancel₀ _ (by positivity), round_natCast, u32_natCast]

/-- A modulation index has the format of a frequency. -/
theorem wordOfModIndex_modIndex (x : Word) : wordOfModIndex (modIndex x) = x := wordOfHertz_hertz x

/-- The signed formats share one conversion: with `n` fraction bits, the scaled value of a word rounds to the word. -/
theorem u32_round_scaled_s32 (x : Word) (n : ℕ) : u32 (round ((s32 x : ℚ) / 2 ^ n * 2 ^ n)) = x := by
  rw [div_mul_cancel₀ _ (by positivity), round_intCast, u32_s32]

theorem wordOfSeconds_seconds (x : Word) : wordOfSeconds (seconds x) = x := u32_round_scaled_s32 x 32

theorem wordOfSample_sampleValue (x : Word) : wordOfSample (sampleValue x) = x := u32_round_scaled_s32 x 28

theorem wordOfCoef_coefValue (x : Word) : wordOfCoef (coefValue x) = x := u32_round_scaled_s32 x 30

/-- Settles O58, format by format. -/
theorem formatsConvertBack : Obligations.FormatsConvertBack := fun x =>
  ⟨wordOfTurns_turns x, wordOfHertz_hertz x, wordOfModIndex_modIndex x, wordOfSeconds_seconds x,
    wordOfSample_sampleValue x, wordOfCoef_coefValue x⟩

end Sys2Proof.Machine

/-! PROOFS. 00_scope.md R9, 40_phase_accumulator.md R105, R107: `ADVANCE` in turns, Hz and seconds. -/
namespace Sys2Proof.Machine

/-- One phase after a step, without the modulo: the wrap takes whole turns, the floor drops the low 16 bits of the product
(R105). -/
theorem phaseStep_balance (phase f a : Word) : ∃ n : ℤ,
    ((phase.toNat : ℤ) - (phaseStep phase f a).toNat - 2 ^ 32 * n) * 2 ^ 16 + f.toNat * s32 a =
      f.toNat * s32 a % 2 ^ 16 := by
  have hstep := phaseStep_toNat phase f a
  generalize (f.toNat : ℤ) * s32 a = prod at *
  exact ⟨(phase.toNat + prod / 2 ^ 16) / 2 ^ 32, by omega⟩

/-- In turns, a phase moves by frequency times time less whole turns, and falls short of it by exactly what the floor
drops (R105, R107). -/
theorem turns_phaseStep (phase f a : Word) : ∃ n : ℤ,
    turns phase + hertz f * seconds a - turns (phaseStep phase f a) - n =
      ((f.toNat * s32 a % 2 ^ 16 : ℤ) : ℚ) / 2 ^ 48 := by
  obtain ⟨n, hn⟩ := phaseStep_balance phase f a
  refine ⟨n, ?_⟩
  rw [← hn, turns, turns, hertz, seconds]
  push_cast
  ring

/-- What the floor drops is less than one phase unit, downward (R107). -/
theorem turns_phaseStep_error (phase f a : Word) : ∃ n : ℤ,
    0 ≤ turns phase + hertz f * seconds a - turns (phaseStep phase f a) - n ∧
      turns phase + hertz f * seconds a - turns (phaseStep phase f a) - n < 1 / 2 ^ 32 := by
  obtain ⟨n, hn⟩ := turns_phaseStep phase f a
  have hnonneg : (0 : ℚ) ≤ (f.toNat * s32 a % 2 ^ 16 : ℤ) := by
    exact_mod_cast Int.emod_nonneg _ (by norm_num)
  have hlt : ((f.toNat * s32 a % 2 ^ 16 : ℤ) : ℚ) < 2 ^ 16 := by
    exact_mod_cast Int.emod_lt_of_pos _ (by norm_num)
  refine ⟨n, ?_⟩
  rw [hn]
  constructor
  · positivity
  · rw [div_lt_div_iff₀ (by positivity) (by positivity)]
    linarith

/-- Settles O22: `ADVANCE` steps both phases, and the error bound holds for any phase and frequency. -/
theorem advanceIsFrequencyTimesTime : Obligations.AdvanceIsFrequencyTimesTime := fun s a =>
  ⟨execNext (.advance a) s, exec_eq _ s, turns_phaseStep_error s.th s.p.freq a, turns_phaseStep_error s.ct s.p.cfreq a⟩

end Sys2Proof.Machine

/-! PROOFS. 10_state.md R36: the frame. Each shared operation leaves alone every register outside the list it may write, and
a command's frame is that of its operation. -/
namespace Sys2Proof.Machine

@[simp] theorem mem_allParams (f : ParamSel) : f ∈ allParams := by cases f <;> decide
@[simp] theorem mem_allCoefs (f : CoefSel) : f ∈ allCoefs := by cases f <;> decide
@[simp] theorem mem_allLegs (k : LegName) : k ∈ allLegs := by cases k <;> decide

section
variable {s t u : State} {r : Reg}

theorem SameReg.symm (h : SameReg s t r) : SameReg t s r := by
  cases r <;> exact Eq.symm h

theorem SameReg.trans (h : SameReg s t r) (h' : SameReg t u r) : SameReg s u r := by
  cases r <;> exact Eq.trans h h'

/-- A response is no register of R20. -/
theorem sameReg_respond (s : State) (x : Response) (r : Reg) : SameReg s (s.respond x) r := by
  cases r <;> rfl

theorem SameReg.respond (x : Response) (h : SameReg s t r) : SameReg s (t.respond x) r :=
  h.trans (sameReg_respond t x r)

theorem sameReg_rejectWord (hr : r ∉ [Reg.ill]) : SameReg s s.rejectWord r := by
  cases r with
  | ill => simp at hr
  | _ => rfl

theorem sameReg_loadDelta {f : ParamSel} (a : Word) (hr : r ∉ [Reg.d f, Reg.dmask f]) :
    SameReg s (s.loadDelta f a) r := by
  cases r with
  | d g =>
    have hne : f ≠ g := by rintro rfl; simp at hr
    simp [SameReg, hne]
  | dmask g =>
    have hne : f ≠ g := by rintro rfl; simp at hr
    simp only [SameReg, State.loadDelta_dmask, dmask_set, hne, decide_false, Bool.or_false]
  | _ => rfl

theorem sameReg_mergeDelta (hr : r ∉ allParams.map Reg.p ++ allParams.map Reg.dmask) : SameReg s s.mergeDelta r := by
  cases r with
  | p f => simp at hr
  | dmask f => simp at hr
  | _ => rfl

theorem sameReg_advancePhases (a : Word) (hr : r ∉ [Reg.th, Reg.ct]) : SameReg s (s.advancePhases a) r := by
  cases r with
  | th => simp at hr
  | ct => simp at hr
  | _ => rfl

theorem sameReg_loadCoef {f : CoefSel} (a : Word) (hr : r ∉ [Reg.dc f]) : SameReg s (s.loadCoef f a) r := by
  cases r with
  | dc g =>
    have hne : f ≠ g := by rintro rfl; simp at hr
    simp [SameReg, hne]
  | _ => rfl

theorem sameReg_commitCoefs (hr : r ∉ allCoefs.map Reg.c) : SameReg s s.commitCoefs r := by
  cases r with
  | c f => simp at hr
  | _ => rfl

theorem sameReg_setFen (b : Bool) (hr : r ∉ [Reg.fen]) : SameReg s { s with fen := b } r := by
  cases r with
  | fen => simp at hr
  | _ => rfl

theorem sameReg_filterLegs (o : PwmOut) (hr : r ∉ allLegs.map Reg.h ++ [Reg.sat]) : SameReg s (s.filterLegs o) r := by
  cases r with
  | h k => simp at hr
  | sat => simp at hr
  | _ => rfl

/-- With the filters disabled no register changes, with them enabled the histories and `SAT` may (42_biquad_filter.md R169,
R170). -/
theorem sameReg_processLegs (hr : r ∉ mayWrite s.fen .proc) : SameReg s s.processLegs r := by
  rw [State.processLegs_eq]
  cases hfen : s.fen with
  | true =>
    rw [hfen] at hr
    exact sameReg_filterLegs _ hr
  | false => exact sameReg_respond s _ r

/-- A command leaves alone every register that its row does not let it write. -/
theorem sameReg_execNext (i : Instr) (hr : r ∉ mayWrite s.fen i) : SameReg s (execNext i s) r := by
  cases i with
  | nop => exact sameReg_respond s _ r
  | ldd sel a =>
    simp only [execNext, mayWrite] at hr ⊢
    cases hsel : paramSel sel with
    | some f =>
      rw [hsel] at hr
      exact (sameReg_loadDelta a hr).respond _
    | none =>
      rw [hsel] at hr
      exact sameReg_rejectWord hr
  | apply => exact (sameReg_mergeDelta hr).respond _
  | advance a => exact (sameReg_advancePhases a hr).respond _
  | sample => exact sameReg_respond s _ r
  | snapshot => exact sameReg_respond s _ r
  | gen a b => exact sameReg_respond s _ r
  | ldc sel a =>
    simp only [execNext, mayWrite] at hr ⊢
    cases hsel : coefSel sel with
    | some f =>
      rw [hsel] at hr
      exact (sameReg_loadCoef a hr).respond _
    | none =>
      rw [hsel] at hr
      exact sameReg_rejectWord hr
  | setcoef => exact (sameReg_commitCoefs hr).respond _
  | fctl a => exact (sameReg_setFen (truth a) hr).respond _
  | proc => exact sameReg_processLegs hr
  | tick a =>
    obtain ⟨hphases, hproc⟩ := not_or.1 (List.mem_append.not.1 hr)
    exact (sameReg_processLegs hproc).trans (sameReg_advancePhases a hphases)

end

/-- Settles O50, by the frame of the command's next state. -/
theorem commandsWriteOnlyTheirRegisters : Obligations.CommandsWriteOnlyTheirRegisters := by
  intro i s t h
  obtain rfl := (exec_next_iff i s t).1 h
  exact ⟨execNext_pins i s, fun _ hr => sameReg_execNext i hr⟩

end Sys2Proof.Machine

/-! PROOFS. 10_state.md R36, R37: two runs of one command. From states that agree on what it reads, the two runs respond
alike and write the same values; on a register it does not write, the frame carries the agreement over. -/
namespace Sys2Proof.Machine

/-- Two states that agree on the registers the command `i` reads. -/
def SameReads (i : Instr) (s s' : State) : Prop := ∀ r ∈ mayRead s.fen i, SameReg s s' r

/-- The written registers that may show what was there before: `SAT`, and the fields of `P` under `APPLY`. -/
def ShowsOld (i : Instr) (r : Reg) : Prop := r = .sat ∨ (i = .apply ∧ ∃ f, r = .p f)

/-- Two history files with the same three histories are equal. -/
theorem Bank.ext_get (b b' : Bank) (h : ∀ k, b.get k = b'.get k) : b = b' :=
  (Bank.mk.injEq ..).mpr ⟨h .u, h .v, h .w⟩

section
variable {s s' : State} {a : Word}

theorem SameReads.of_subset {i j : Instr} (h : SameReads i s s') (hsub : mayRead s.fen j ⊆ mayRead s.fen i) :
    SameReads j s s' := fun r hr => h r (hsub hr)

/-- `PROC` reads all that `SAMPLE` reads. -/
theorem SameReads.sample_of_proc (h : SameReads .proc s s') : SameReads .sample s s' :=
  h.of_subset (by simp [mayRead])

/-- `TICK` reads all that `PROC` reads. -/
theorem SameReads.proc_of_tick (h : SameReads (.tick a) s s') : SameReads .proc s s' :=
  h.of_subset (List.append_subset.2 ⟨by simp [mayRead], List.subset_append_right _ _⟩)

/-- `TICK` reads all that `ADVANCE` reads. -/
theorem SameReads.advance_of_tick (h : SameReads (.tick a) s s') : SameReads (.advance a) s s' :=
  h.of_subset (by simp [mayRead])

theorem SameReads.th_of_advance (h : SameReads (.advance a) s s') :
    (s.advancePhases a).th = (s'.advancePhases a).th := by
  have hfreq : s.p.freq = s'.p.freq := h (.p .freq) (by simp [mayRead])
  have hth : s.th = s'.th := h .th (by simp [mayRead])
  simp [hfreq, hth]

theorem SameReads.ct_of_advance (h : SameReads (.advance a) s s') :
    (s.advancePhases a).ct = (s'.advancePhases a).ct := by
  have hcfreq : s.p.cfreq = s'.p.cfreq := h (.p .cfreq) (by simp [mayRead])
  have hct : s.ct = s'.ct := h .ct (by simp [mayRead])
  simp [hcfreq, hct]

theorem SameReads.sampleLegs (h : SameReads .sample s s') : s.sampleLegs = s'.sampleLegs := by
  have hvolt : s.p.volt = s'.p.volt := h (.p .volt) (by simp [mayRead])
  have hpmode : s.p.pmode = s'.p.pmode := h (.p .pmode) (by simp [mayRead])
  have hth : s.th = s'.th := h .th (by simp [mayRead])
  have hct : s.ct = s'.ct := h .ct (by simp [mayRead])
  simp [State.sampleLegs, hvolt, hpmode, hth, hct]

theorem SameReads.fen_of_proc (h : SameReads .proc s s') : s.fen = s'.fen := h .fen (by simp [mayRead])

theorem SameReads.c_of_proc (h : SameReads .proc s s') (hfen : s.fen = true) : s.c = s'.c :=
  Coefs.ext_get _ _ fun f => h (.c f) (by simp [mayRead, hfen])

theorem SameReads.h_of_proc (h : SameReads .proc s s') (hfen : s.fen = true) : s.h = s'.h :=
  Bank.ext_get _ _ fun k => h (.h k) (by simp [mayRead, hfen])

/-- The filters, run from two such states, respond alike, store the same histories, and clamp alike. -/
theorem SameReads.filterLegs_of_proc (h : SameReads .proc s s') (hfen : s.fen = true) (o : PwmOut) :
    (s.filterLegs o).rsp = (s'.filterLegs o).rsp ∧ (s.filterLegs o).h = (s'.filterLegs o).h ∧
      (s.sat = s'.sat → (s.filterLegs o).sat = (s'.filterLegs o).sat) := by
  have hc := h.c_of_proc hfen
  have hh := h.h_of_proc hfen
  refine ⟨?_, ?_, fun hsat => ?_⟩
  · simp [hc, hh]
  · simp [hc, hh]
  · simp [hc, hh, hsat]

theorem SameReads.rsp_of_proc (h : SameReads .proc s s') : s.processLegs.rsp = s'.processLegs.rsp := by
  rw [State.processLegs_eq, State.processLegs_eq, ← h.fen_of_proc, ← h.sample_of_proc.sampleLegs]
  cases hfen : s.fen with
  | true => exact (h.filterLegs_of_proc hfen _).1
  | false => rfl

/-- The registers `PROC` writes hold the same after two such runs, `SAT` if it held the same before. -/
theorem SameReads.written_of_proc (h : SameReads .proc s s') {r : Reg} (hw : r ∈ mayWrite s.fen .proc)
    (hsat : r = .sat → SameReg s s' r) : SameReg s.processLegs s'.processLegs r := by
  rw [State.processLegs_eq, State.processLegs_eq, ← h.fen_of_proc, ← h.sample_of_proc.sampleLegs]
  cases hfen : s.fen with
  | true =>
    obtain ⟨-, hh, hs⟩ := h.filterLegs_of_proc hfen s.sampleLegs
    simp only [mayWrite, hfen, if_true, List.mem_append, List.mem_map, List.mem_singleton] at hw
    obtain ⟨k, -, rfl⟩ | rfl := hw
    · exact congrArg (Bank.get · k) hh
    · exact hs (hsat rfl)
  | false => simp [mayWrite, hfen] at hw

/-- What `ADVANCE` reads is not what `PROC` writes. -/
theorem not_written_by_proc_of_read_by_advance (fen : Bool) :
    ∀ r ∈ [Reg.p .freq, Reg.p .cfreq, Reg.th, Reg.ct], r ∉ mayWrite fen .proc := by
  cases fen <;> decide

/-- What `ADVANCE` reads still agrees after `PROC`. -/
theorem SameReads.processLegs_of_advance (h : SameReads (.advance a) s s') :
    SameReads (.advance a) s.processLegs s'.processLegs := fun r hr =>
  (sameReg_processLegs (not_written_by_proc_of_read_by_advance s.fen r hr)).symm.trans
    ((h r hr).trans (sameReg_processLegs (not_written_by_proc_of_read_by_advance s'.fen r hr)))

/-- The phases after two such runs. -/
theorem SameReads.written_of_advance (h : SameReads (.advance a) s s') {r : Reg} (hw : r ∈ [Reg.th, Reg.ct]) :
    SameReg (s.advancePhases a) (s'.advancePhases a) r := by
  simp only [List.mem_cons, List.not_mem_nil, or_false] at hw
  obtain rfl | rfl := hw
  · exact h.th_of_advance
  · exact h.ct_of_advance

theorem SameReads.mayWrite_eq {i : Instr} (h : SameReads i s s') : mayWrite s'.fen i = mayWrite s.fen i := by
  cases i with
  | proc => rw [h.fen_of_proc]
  | tick a => rw [h.proc_of_tick.fen_of_proc]
  | _ => rfl

/-- Two states that agree on what a command reads get the same response. -/
theorem SameReads.execNext_rsp {i : Instr} (h : SameReads i s s') : (execNext i s).rsp = (execNext i s').rsp := by
  cases i with
  | ldd sel a => simp only [execNext]; cases paramSel sel <;> rfl
  | ldc sel a => simp only [execNext]; cases coefSel sel <;> rfl
  | sample => exact congrArg PwmOut.response h.sampleLegs
  | snapshot =>
    have hp : s.p = s'.p := Params.ext_get _ _ fun f => h (.p f) (by simp [mayRead])
    have hth : s.th = s'.th := h .th (by simp [mayRead])
    have hct : s.ct = s'.ct := h .ct (by simp [mayRead])
    simp [execNext, hp, hth, hct]
  | gen a b =>
    have hvolt : s.p.volt = s'.p.volt := h (.p .volt) (by simp [mayRead])
    have hpmode : s.p.pmode = s'.p.pmode := h (.p .pmode) (by simp [mayRead])
    simp [execNext, hvolt, hpmode]
  | proc => exact h.rsp_of_proc
  | tick a => exact h.proc_of_tick.rsp_of_proc
  | _ => rfl

/-- The fields of `P` after `APPLY` are those of two equal pushes, merged into fields that agreed. -/
theorem SameReads.mergeDelta_get (h : SameReads .apply s s') {f : ParamSel} (hp : SameReg s s' (.p f)) :
    SameReg s.mergeDelta s'.mergeDelta (.p f) := by
  have hd : s.d.get f = s'.d.get f := h (.d f) (by simp [mayRead])
  have hmask : s.dmask.getLsbD f.index = s'.dmask.getLsbD f.index := h (.dmask f) (by simp [mayRead])
  have hold : s.p.get f = s'.p.get f := hp
  simp only [SameReg, State.mergeDelta_get, hd, hmask, hold]

/-- The registers a command writes hold the same after two runs from states that agree on what it reads. -/
theorem SameReads.execNext_written {i : Instr} (h : SameReads i s s') {r : Reg} (hw : r ∈ mayWrite s.fen i)
    (hold : ShowsOld i r → SameReg s s' r) : SameReg (execNext i s) (execNext i s') r := by
  cases i with
  | nop | sample | snapshot | gen => simp [mayWrite] at hw
  | ldd sel a =>
    simp only [execNext, mayWrite] at hw ⊢
    cases hsel : paramSel sel with
    | some f =>
      simp only [hsel, List.mem_cons, List.not_mem_nil, or_false] at hw
      obtain rfl | rfl := hw
      · simp [SameReg]
      · simp only [SameReg, State.respond_dmask, State.loadDelta_dmask, dmask_set, decide_true, Bool.or_true]
    | none =>
      simp only [hsel, List.mem_singleton] at hw
      subst hw
      rfl
  | apply =>
    simp only [mayWrite, List.mem_append, List.mem_map] at hw
    obtain ⟨f, -, rfl⟩ | ⟨f, -, rfl⟩ := hw
    · exact h.mergeDelta_get (hold (.inr ⟨rfl, f, rfl⟩))
    · rfl
  | advance a => exact h.written_of_advance hw
  | ldc sel a =>
    simp only [execNext, mayWrite] at hw ⊢
    cases hsel : coefSel sel with
    | some f =>
      simp only [hsel, List.mem_singleton] at hw
      subst hw
      simp [SameReg]
    | none =>
      simp only [hsel, List.mem_singleton] at hw
      subst hw
      rfl
  | setcoef =>
    simp only [mayWrite, List.mem_map] at hw
    obtain ⟨f, -, rfl⟩ := hw
    exact h (.dc f) (by simp [mayRead])
  | fctl a =>
    simp only [mayWrite, List.mem_singleton] at hw
    subst hw
    rfl
  | proc => exact h.written_of_proc hw (fun hr => hold (.inl hr))
  | tick a =>
    have hproc := h.proc_of_tick
    by_cases hphase : r ∈ [Reg.th, Reg.ct]
    · exact h.advance_of_tick.processLegs_of_advance.written_of_advance hphase
    · have hw : r ∈ mayWrite s.fen .proc := (List.mem_append.1 hw).resolve_left hphase
      have hlegs := hproc.written_of_proc hw fun hr => hold (.inl hr)
      exact (sameReg_advancePhases a hphase).symm.trans (hlegs.trans (sameReg_advancePhases a hphase))

/-- Agreement on a register outlives a command whose reads agree. -/
theorem SameReads.execNext_sameReg {i : Instr} (h : SameReads i s s') {r : Reg} (hr : SameReg s s' r) :
    SameReg (execNext i s) (execNext i s') r := by
  by_cases hw : r ∈ mayWrite s.fen i
  · exact h.execNext_written hw fun _ => hr
  · exact (sameReg_execNext i hw).symm.trans (hr.trans (sameReg_execNext i (h.mayWrite_eq ▸ hw)))

end

/-- Settles O51: equal reads give equal responses and equal written values; the frame does the rest. -/
theorem commandsReadOnlyTheirRegisters : Obligations.CommandsReadOnlyTheirRegisters := by
  intro i s s' t t' hreads ht ht'
  obtain rfl := (exec_next_iff i s t).1 ht
  obtain rfl := (exec_next_iff i s' t').1 ht'
  have hreads : SameReads i s s' := hreads
  refine ⟨hreads.execNext_rsp, fun r hr => hreads.execNext_sameReg hr, fun r hw hsat happly => ?_⟩
  refine hreads.execNext_written hw fun hold => ?_
  obtain rfl | ⟨hi, f, hr⟩ := hold
  · exact absurd rfl hsat
  · exact absurd hr (happly f hi)

end Sys2Proof.Machine

/-! PROOFS. 10_state.md R34: the state after reset. -/
namespace Sys2Proof.Machine

@[simp] theorem Params.get_zero (f : ParamSel) : Params.zero.get f = 0 := by cases f <;> rfl
@[simp] theorem Coefs.get_zero (f : CoefSel) : Coefs.zero.get f = 0 := by cases f <;> rfl
@[simp] theorem State.reset_h_get (k : LegName) : State.reset.h.get k = Hist.zero := by cases k <;> rfl

/-- Settles O1, file by file. -/
theorem resetZeroesEveryRegister : Obligations.ResetZeroesEveryRegister :=
  ⟨Params.get_zero, Params.get_zero, rfl, rfl, rfl, Coefs.get_zero, Coefs.get_zero,
    fun k => by rw [State.reset_h_get]; exact ⟨rfl, rfl, rfl, rfl⟩, rfl, rfl, rfl⟩

/-- Settles O56: both parameter files and all histories are zero. -/
theorem resetMeetsInvariant : Obligations.ResetMeetsInvariant where
  staged := fun _ _ => rfl
  histories := ⟨fun k => .inl (State.reset_h_get k), fun k l => by simp only [State.reset_h_get, and_self]⟩

end Sys2Proof.Machine

/-! PROOFS. 10_state.md R28, 42_biquad_filter.md R169: what a command does to the histories and the flags, said once. -/
namespace Sys2Proof.Machine

/-- Some leg is U, V or W. -/
theorem LegName.exists_iff {P : LegName → Prop} : (∃ k, P k) ↔ P .u ∨ P .v ∨ P .w := by
  constructor
  · rintro ⟨k | k | k, hk⟩
    · exact .inl hk
    · exact .inr (.inl hk)
    · exact .inr (.inr hk)
  · rintro (hk | hk | hk)
    · exact ⟨.u, hk⟩
    · exact ⟨.v, hk⟩
    · exact ⟨.w, hk⟩

/-- A filter pass, leg by leg. -/
theorem State.filterLegs_h_get (s : State) (o : PwmOut) (k : LegName) :
    (s.filterLegs o).h.get k = (process s.c (s.h.get k) (o.leg k).sample).hist := by
  cases k <;> rfl

/-- `SAT` after a filter pass: it was set, or some leg clamps (42_biquad_filter.md R167, 60_exceptions.md R193). -/
theorem State.filterLegs_sat_iff (s : State) (o : PwmOut) :
    (s.filterLegs o).sat = true ↔
      s.sat = true ∨ ∃ k, (process s.c (s.h.get k) (o.leg k).sample).clamped = true := by
  simp only [State.filterLegs_sat, Bool.or_eq_true, LegName.exists_iff, or_assoc]
  rfl

/-- The histories and `SAT` change only when the filters run: in a `PROC` or a `TICK` with `FEN` = 1 (R169, R170). -/
theorem execNext_keeps_or_filters (i : Instr) (s : State) :
    ((execNext i s).h = s.h ∧ (execNext i s).sat = s.sat) ∨
    (s.fen = true ∧ (i = .proc ∨ ∃ a, i = .tick a) ∧
      (execNext i s).h = (s.filterLegs s.sampleLegs).h ∧ (execNext i s).sat = (s.filterLegs s.sampleLegs).sat) := by
  have hprocess : (s.processLegs.h = s.h ∧ s.processLegs.sat = s.sat) ∨
      (s.fen = true ∧ s.processLegs = s.filterLegs s.sampleLegs) := by
    rw [State.processLegs_eq]
    cases s.fen with
    | true => exact .inr ⟨rfl, rfl⟩
    | false => exact .inl ⟨rfl, rfl⟩
  cases i with
  | ldd sel a => simp only [execNext]; cases paramSel sel <;> exact .inl ⟨rfl, rfl⟩
  | ldc sel a => simp only [execNext]; cases coefSel sel <;> exact .inl ⟨rfl, rfl⟩
  | proc =>
    refine hprocess.imp_right fun ⟨hfen, h⟩ => ⟨hfen, .inl rfl, ?_⟩
    rw [← h]
    exact ⟨rfl, rfl⟩
  | tick a =>
    refine hprocess.imp_right fun ⟨hfen, h⟩ => ⟨hfen, .inr ⟨a, rfl⟩, ?_⟩
    rw [← h]
    exact ⟨rfl, rfl⟩
  | _ => exact .inl ⟨rfl, rfl⟩

theorem legalSel_eq_isSome_paramSel (sel : BitVec 4) : legalSel sel = (paramSel sel).isSome := by
  revert sel
  decide

theorem legalSel_eq_isSome_coefSel (sel : BitVec 4) : legalSel sel = (coefSel sel).isSome := by
  revert sel
  decide

/-- A command sets `ILL` exactly when its selector names no register (40_phase_accumulator.md R102, 42_biquad_filter.md
R161). -/
theorem execNext_ill (i : Instr) (s : State) : (execNext i s).ill = (s.ill || !wellFormed i) := by
  cases i with
  | ldd sel a =>
    simp only [execNext, wellFormed, legalSel_eq_isSome_paramSel]
    cases paramSel sel <;> simp
  | ldc sel a =>
    simp only [execNext, wellFormed, legalSel_eq_isSome_coefSel]
    cases coefSel sel <;> simp
  | _ => simp [execNext, wellFormed]

end Sys2Proof.Machine

/-! PROOFS. 10_state.md R23, 42_biquad_filter.md R169: the invariant of a run. -/
namespace Sys2Proof.Machine

theorem LegInput.ne_zero {x : Word} (h : LegInput x) : x ≠ 0 := by
  rcases h with rfl | rfl <;> decide

/-- What enters a filter as a leg value is stored as one (42_biquad_filter.md R169). -/
theorem legInput_u32_sample (l : Leg) : LegInput (u32 l.sample) := by
  cases l with
  | pos => exact .inl (u32_leg_sample .pos)
  | neg => exact .inr (u32_leg_sample .neg)

/-- A filter that has seen comparator values only has still done so after one more. -/
theorem Hist.FromComparator.process {h : Hist} (hh : h.FromComparator) (c : Coefs) (l : Leg) :
    (process c h l.sample).hist.FromComparator := by
  refine .inr ⟨legInput_u32_sample l, ?_⟩
  obtain rfl | ⟨hx1, -⟩ := hh
  · exact .inl ⟨rfl, rfl⟩
  · exact .inr hx1

/-- A pass of the filters keeps the histories' part of the invariant: every leg gets one more comparator value. -/
theorem HistoriesFromComparator.filterLegs {s : State} (h : HistoriesFromComparator s.h) (o : PwmOut) :
    HistoriesFromComparator (s.filterLegs o).h := by
  obtain ⟨hfrom, heven⟩ := h
  have hx1 : ∀ k, ((s.filterLegs o).h.get k).x1 ≠ 0 := fun k => by
    rw [State.filterLegs_h_get]
    exact (legInput_u32_sample _).ne_zero
  refine ⟨fun k => ?_, fun k l => ⟨iff_of_false (hx1 k) (hx1 l), ?_⟩⟩
  · rw [State.filterLegs_h_get]
    exact (hfrom k).process s.c (o.leg k)
  · rw [State.filterLegs_h_get, State.filterLegs_h_get]
    exact (heven k l).1

theorem HistoriesFromComparator.execNext {s : State} (h : HistoriesFromComparator s.h) (i : Instr) :
    HistoriesFromComparator (execNext i s).h := by
  obtain ⟨hkeep, -⟩ | ⟨-, -, hfilter, -⟩ := execNext_keeps_or_filters i s
  · rwa [hkeep]
  · rw [hfilter]
    exact h.filterLegs _

/-- Loading a field makes it pending, so nothing is asked of it (40_phase_accumulator.md R102). -/
theorem StagedAgrees.loadDelta {s : State} (h : StagedAgrees s) (f : ParamSel) (a : Word) :
    StagedAgrees (s.loadDelta f a) := by
  intro g hg
  rw [State.loadDelta_dmask, dmask_set, Bool.or_eq_false_iff, decide_eq_false_iff_not] at hg
  obtain ⟨hclear, hne⟩ := hg
  simp [hne, h g hclear]

/-- The merge brings every pending field over; the others agreed before (R103). -/
theorem StagedAgrees.mergeDelta {s : State} (h : StagedAgrees s) : StagedAgrees s.mergeDelta := by
  intro f _
  rw [State.mergeDelta_get, State.mergeDelta_d]
  split
  · rfl
  · next hclear => exact h f (Bool.eq_false_of_not_eq_true hclear)

theorem StagedAgrees.execNext {s : State} (h : StagedAgrees s) (i : Instr) : StagedAgrees (execNext i s) := by
  cases i with
  | ldd sel a =>
    simp only [Machine.execNext]
    cases paramSel sel with
    | some f => exact h.loadDelta f a
    | none => exact h
  | apply => exact h.mergeDelta
  | ldc sel a => simp only [Machine.execNext]; cases coefSel sel <;> exact h
  | proc | tick => simpa [StagedAgrees, Machine.execNext] using h
  | _ => exact h

theorem Inv.execNext {s : State} (h : Inv s) (i : Instr) : Inv (execNext i s) :=
  ⟨h.staged.execNext i, h.histories.execNext i⟩

/-- Settles O57, by what a step can do. An edge without a command leaves the registers the invariant speaks of, or resets
them. -/
theorem stepKeepsInvariant : Obligations.StepKeepsInvariant := by
  intro s t hinv hstep
  have hpopped : ∀ rest, Inv { s with pins := rest } := fun _ => ⟨hinv.staged, hinv.histories⟩
  obtain ⟨_, rest, i, -, -, -, -, rfl⟩ | ⟨_, rest, _, -, -, -, -, rfl⟩ | ⟨_, rest, -, -, rfl⟩ | ⟨rest, -, rfl⟩ :=
    step_cases s t hstep
  · exact (hpopped rest).execNext i
  · exact ⟨(hpopped rest).staged, (hpopped rest).histories⟩
  · exact ⟨resetMeetsInvariant.staged, resetMeetsInvariant.histories⟩
  · exact ⟨(hpopped rest).staged, (hpopped rest).histories⟩

end Sys2Proof.Machine

/-! PROOFS. 30_encoding.md R71, R80: which words the decoder accepts. -/
namespace Sys2Proof

theorem wellFormed_of_decode {w : CmdWord} {i : Instr} (h : decode w = .ok i) : wellFormed i = true := by
  unfold decode at h
  repeat' split at h
  all_goals cases h
  all_goals simp [wellFormed, *]

theorem illegalWord_of_decode_error {w : CmdWord} {e : DecodeError} (h : decode w = .error e) :
    Machine.IllegalWord w := by
  unfold decode at h
  repeat' split at h
  all_goals cases h
  · next hop hsel => exact .inr ⟨.inl hop, not_le.1 (by simpa [legalSel] using hsel)⟩
  · next hop hsel => exact .inr ⟨.inr hop, not_le.1 (by simpa [legalSel] using hsel)⟩
  · simp only [imp_false] at *
    exact .inl (by omega)

end Sys2Proof

/-! PROOFS. 10_state.md R28, 60_exceptions.md R191, R193: the sticky flags. -/
namespace Sys2Proof.Machine

theorem execNext_ill_sticky {s : State} (i : Instr) (h : s.ill = true) : (execNext i s).ill = true := by
  simp [execNext_ill, h]

theorem execNext_ill_of_wellFormed {i : Instr} (h : wellFormed i = true) (s : State) :
    (execNext i s).ill = s.ill := by
  simp [execNext_ill, h]

theorem execNext_sat_sticky {s : State} (i : Instr) (h : s.sat = true) : (execNext i s).sat = true := by
  obtain ⟨-, hkeep⟩ | ⟨-, -, -, hfilter⟩ := execNext_keeps_or_filters i s
  · rwa [hkeep]
  · rw [hfilter]
    exact (State.filterLegs_sat_iff s _).2 (.inl h)

/-- Settles O52: a command and a rejected word only ever set a flag, an idle edge keeps both. -/
theorem flagsAreStickyUntilReset : Obligations.FlagsAreStickyUntilReset := by
  intro s t hstep hnoReset
  obtain ⟨_, rest, i, -, -, -, -, rfl⟩ | ⟨_, _, _, -, -, -, -, rfl⟩ | ⟨e, rest, hpins, hrst, -⟩ | ⟨_, -, rfl⟩ :=
    step_cases s t hstep
  · exact ⟨execNext_ill_sticky (s := { s with pins := rest }) i, execNext_sat_sticky (s := { s with pins := rest }) i⟩
  · exact ⟨fun _ => rfl, id⟩
  · simp [hnoReset e rest hpins] at hrst
  · exact ⟨id, id⟩

/-- A command that sets `SAT` is a `PROC` or a `TICK` with `FEN` = 1 in which some leg clamps (60_exceptions.md R193). -/
theorem execNext_sat_cause {i : Instr} {s : State} (h : s.sat = false) (h' : (execNext i s).sat = true) :
    s.fen = true ∧ (i = .proc ∨ ∃ a, i = .tick a) ∧
      ∃ k, (process s.c (s.h.get k) (s.sampleLegs.leg k).sample).clamped = true := by
  obtain ⟨-, hkeep⟩ | ⟨hfen, hi, -, hfilter⟩ := execNext_keeps_or_filters i s
  · rw [hkeep, h] at h'
    cases h'
  · rw [hfilter, State.filterLegs_sat_iff, h] at h'
    exact ⟨hfen, hi, h'.resolve_left Bool.false_ne_true⟩

/-- A filter clamps when its rounded sum leaves the sample range (42_biquad_filter.md R167). -/
theorem process_clamped_iff (c : Coefs) (h : Hist) (x : Int) :
    (process c h x).clamped = true ↔
      filterRound (filterSum c h x) < -2 ^ 31 ∨ 2 ^ 31 ≤ filterRound (filterSum c h x) :=
  clamps_iff _

theorem Leg.sample_eq (l : Leg) : l.sample = if l = .pos then 2 ^ 28 else -2 ^ 28 := by
  cases l <;> rfl

/-- An edge that accepts a word is that word at the port (20_memory.md R53). -/
theorem PortIn.eq_word {e : PortIn} (hrst : e.rst = false) (hvalid : e.valid = true) : e = PortIn.word e.cmd := by
  cases e
  simp_all [PortIn.word]

/-- Settles O53. A rejected word sets `ILL` alone; a decoded command is well formed, so it never sets `ILL`, and it sets
`SAT` only where a filter clamps; a reset edge clears both flags and an idle edge keeps them. -/
theorem flagsAreSetOnlyByTheirCauses : Obligations.FlagsAreSetOnlyByTheirCauses := by
  intro s t hstep
  obtain ⟨e, rest, i, hpins, hrst, hvalid, hdec, rfl⟩ | ⟨e, rest, _, hpins, hrst, hvalid, hdec, rfl⟩ |
    ⟨_, _, -, -, rfl⟩ | ⟨_, -, rfl⟩ := step_cases s t hstep
  · rw [PortIn.eq_word hrst hvalid] at hpins
    have hill : (execNext i { s with pins := rest }).ill = s.ill :=
      execNext_ill_of_wellFormed (wellFormed_of_decode hdec) _
    have hnot : s.ill = false → (execNext i { s with pins := rest }).ill ≠ true := fun h => by
      rw [hill, h]
      exact Bool.false_ne_true
    refine ⟨fun h h' => absurd h' (hnot h), fun h h' => ?_, fun h h' => absurd h' (hnot h)⟩
    obtain ⟨hfen, hi, k, hk⟩ := execNext_sat_cause (s := { s with pins := rest }) h h'
    rw [process_clamped_iff, Leg.sample_eq] at hk
    refine ⟨hfen, ⟨e.cmd, rest, hpins, ?_⟩, k, hk⟩
    obtain rfl | ⟨a, rfl⟩ := hi
    · exact .inl hdec
    · exact .inr ⟨a, hdec⟩
  · rw [PortIn.eq_word hrst hvalid] at hpins
    exact ⟨fun _ _ => ⟨e.cmd, rest, hpins, illegalWord_of_decode_error hdec⟩,
      fun h h' => absurd (h.symm.trans h') Bool.false_ne_true, fun _ _ => rfl⟩
  · exact ⟨fun _ h' => absurd h' Bool.false_ne_true, fun _ h' => absurd h' Bool.false_ne_true,
      fun _ h' => absurd h' Bool.false_ne_true⟩
  · exact ⟨fun h h' => absurd (h.symm.trans h') Bool.false_ne_true,
      fun h h' => absurd (h.symm.trans h') Bool.false_ne_true, fun _ _ => rfl⟩

end Sys2Proof.Machine

/-! PROOFS. 10_state.md R22, R33: the response of the step before is never read, the `phase` parameter by `SNAPSHOT` only. -/
namespace Sys2Proof.Machine

/-- Every command replaces the response and reads none. -/
theorem execNext_respond (i : Instr) (s : State) (r : Response) : execNext i (s.respond r) = execNext i s := by
  cases i with
  | ldd sel a => simp only [execNext]; cases paramSel sel <;> rfl
  | ldc sel a => simp only [execNext]; cases coefSel sel <;> rfl
  | _ => rfl

theorem execWord_respond (w : CmdWord) (s : State) (r : Response) : execWord w (s.respond r) = execWord w s := by
  simp only [execWord]
  cases decode w with
  | ok i => simp only [exec_eq, execNext_respond]
  | error e => rfl

section
variable {s : State} {valid : Bool} {w : CmdWord} {rest : List PortIn}

theorem step_nothing (h : s.pins = []) : step s = .next s.idleEdge := by
  simp [step, nextEdge, h]

theorem step_reset (h : s.pins = ⟨true, valid, w⟩ :: rest) : step s = .next { State.reset with pins := rest } := by
  simp [step, nextEdge, h, State.resetEdge_eq]

theorem step_idle (h : s.pins = ⟨false, false, w⟩ :: rest) : step s = .next ({ s with pins := rest } : State).idleEdge := by
  simp [step, nextEdge, h]

end

/-- The port inputs choose the edge, and no kind of edge reads the response. -/
theorem step_respond (s : State) (r : Response) : step (s.respond r) = step s := by
  have hsame : (s.respond r).pins = s.pins := rfl
  match hpins : s.pins with
  | [] => exact (step_nothing (hsame.trans hpins)).trans (step_nothing hpins).symm
  | ⟨true, _, _⟩ :: _ => exact (step_reset (hsame.trans hpins)).trans (step_reset hpins).symm
  | ⟨false, false, _⟩ :: _ => exact (step_idle (hsame.trans hpins)).trans (step_idle hpins).symm
  | ⟨false, true, w⟩ :: rest =>
    calc step (s.respond r)
        = execWord w (({ s with pins := rest } : State).respond r) := step_word (hsame.trans hpins)
      _ = execWord w { s with pins := rest } := execWord_respond w _ r
      _ = step s := (step_word hpins).symm

/-- Settles O10: to change the response outputs is to respond otherwise. -/
theorem responseOutputsAreNeverRead : Obligations.ResponseOutputsAreNeverRead := step_respond

@[simp] theorem State.blotPhase_rsp (s : State) : s.blotPhase.rsp = s.rsp := rfl

theorem State.blotPhase_p_get (s : State) (f : ParamSel) :
    s.blotPhase.p.get f = if f = .phase then 0 else s.p.get f := by
  cases f <;> rfl

theorem State.blotPhase_d_get (s : State) (f : ParamSel) :
    s.blotPhase.d.get f = if f = .phase then 0 else s.d.get f := by
  cases f <;> rfl

/-- The merge moves every field on its own, so blotting one first is blotting it at the end (40_phase_accumulator.md
R103). -/
theorem State.blotPhase_mergeDelta (s : State) : s.blotPhase.mergeDelta.blotPhase = s.mergeDelta.blotPhase := by
  have hp : s.blotPhase.mergeDelta.blotPhase.p = s.mergeDelta.blotPhase.p := by
    refine Params.ext_get _ _ fun f => ?_
    simp only [State.blotPhase_p_get, State.mergeDelta_get, State.blotPhase_d_get]
    split
    · rfl
    · rfl
  calc s.blotPhase.mergeDelta.blotPhase
      = { s.mergeDelta.blotPhase with p := s.blotPhase.mergeDelta.blotPhase.p } := rfl
    _ = s.mergeDelta.blotPhase := by rw [hp]

/-- The comparator and the filters do not see the blotted field. -/
theorem State.processLegs_blotPhase (s : State) : s.blotPhase.processLegs = s.processLegs.blotPhase := by
  rw [State.processLegs_eq, State.processLegs_eq, show s.blotPhase.fen = s.fen from rfl]
  cases s.fen <;> rfl

/-- Every command but `SNAPSHOT` does the same, response included, with the `phase` parameter blotted out. -/
theorem execNext_blotPhase {i : Instr} (hi : i ≠ .snapshot) (s : State) :
    (execNext i s.blotPhase).blotPhase = (execNext i s).blotPhase := by
  cases i with
  | ldd sel a =>
    simp only [execNext]
    cases paramSel sel with
    | some f => cases f <;> rfl
    | none => rfl
  | apply => exact congrArg (State.respond · .none) s.blotPhase_mergeDelta
  | ldc sel a => simp only [execNext]; cases coefSel sel <;> rfl
  | snapshot => exact absurd rfl hi
  | proc => simp only [execNext, State.processLegs_blotPhase]; rfl
  | tick a => simp only [execNext, State.processLegs_blotPhase]; rfl
  | _ => rfl

/-- Settles O55: the two next states are the same once blotted, and blotting leaves the response. -/
theorem phaseParameterIsOnlyForSnapshot : Obligations.PhaseParameterIsOnlyForSnapshot := by
  intro i s s' t t' hi hsame ht ht'
  obtain rfl := (exec_next_iff i s t).1 ht
  obtain rfl := (exec_next_iff i s' t').1 ht'
  have hblot : (execNext i s).blotPhase = (execNext i s').blotPhase := by
    rw [← execNext_blotPhase hi s, hsame, execNext_blotPhase hi s']
  exact ⟨by simpa using congrArg State.rsp hblot, hblot⟩

end Sys2Proof.Machine

/-! PROOFS. 20_memory.md R53, R56, R59, R60: words run in order, what a repeated command does, the status output. -/
namespace Sys2Proof.Machine

/-- Neither the comparator nor the filters read the inputs still to come. -/
theorem State.processLegs_withPins (s : State) (ps : List PortIn) :
    ({ s with pins := ps } : State).processLegs = { s.processLegs with pins := ps } := by
  rw [State.processLegs_eq, State.processLegs_eq]
  by_cases hfen : s.fen = true
  · rw [if_pos hfen, if_pos hfen]
    rfl
  · rw [if_neg hfen, if_neg hfen]
    rfl

/-- No command reads the inputs still to come, and none changes them (10_state.md R27). -/
theorem execNext_withPins (i : Instr) (s : State) (ps : List PortIn) :
    execNext i { s with pins := ps } = { execNext i s with pins := ps } := by
  cases i with
  | ldd sel a => simp only [execNext]; cases paramSel sel <;> rfl
  | ldc sel a => simp only [execNext]; cases coefSel sel <;> rfl
  | proc => exact s.processLegs_withPins ps
  | tick a => exact congrArg (State.advancePhases · a) (s.processLegs_withPins ps)
  | _ => rfl

/-- The effect of a word always goes on (60_exceptions.md R190), the same whatever inputs are still to come. -/
theorem execWord_withPins (w : CmdWord) (s : State) :
    ∃ t : State, ∀ ps, execWord w { s with pins := ps } = .next { t with pins := ps } := by
  cases hdec : decode w with
  | ok i => exact ⟨execNext i s, fun ps => by rw [execWord_of_decode hdec, exec_eq, execNext_withPins]⟩
  | error e => exact ⟨{ s with ill := true, rsp := .none }, fun ps => by rw [execWord, hdec]⟩

theorem execWords_cons_of_next {w : CmdWord} {s t : State} (h : execWord w s = .next t) (ws : List CmdWord) :
    execWords (w :: ws) s = execWords ws t := by
  rw [execWords, h]

theorem run_succ_of_step {s t : State} (h : step s = .next t) (n : Nat) :
    Host.Core.run core (n + 1) s = Host.Core.run core n t := by
  simp only [Host.Core.run, show core.step s = .next t from h]

/-- Settles O9, by induction on the words: the step of the first word leaves the other words at the port. -/
theorem wordsExecuteInOrder : Obligations.WordsExecuteInOrder := by
  intro ws
  induction ws with
  | nil =>
    rintro s _ rfl
    rfl
  | cons w ws ih =>
    intro s rest hpins
    obtain ⟨t, ht⟩ := execWord_withPins w s
    have hstep : step s = .next { t with pins := ws.map PortIn.word ++ rest } := (step_word hpins).trans (ht _)
    exact ((run_succ_of_step hstep _).trans (ih _ rest rfl)).trans (execWords_cons_of_next (ht rest) ws).symm

@[simp] theorem Params.set_set (r : Params) (f : ParamSel) (a b : Word) : (r.set f a).set f b = r.set f b := by
  cases f <;> rfl

@[simp] theorem Coefs.set_set (r : Coefs) (f : CoefSel) (a b : Word) : (r.set f a).set f b = r.set f b := by
  cases f <;> rfl

theorem State.loadDelta_loadDelta (s : State) (f : ParamSel) (a : Word) :
    (s.loadDelta f a).loadDelta f a = s.loadDelta f a := by
  simp [State.loadDelta, BitVec.or_assoc]

theorem State.loadCoef_loadCoef (s : State) (f : CoefSel) (a : Word) :
    (s.loadCoef f a).loadCoef f a = s.loadCoef f a := by
  simp [State.loadCoef]

/-- With no field present in the push the merge does nothing (40_phase_accumulator.md R103). -/
theorem State.mergeDelta_of_empty {s : State} (h : s.dmask = 0) : s.mergeDelta = s := by
  have hp : s.mergeDelta.p = s.p := Params.ext_get _ _ fun f => by
    rw [State.mergeDelta_get, h, dmask_zero, if_neg Bool.false_ne_true]
  calc s.mergeDelta = { s with p := s.mergeDelta.p, dmask := 0 } := rfl
    _ = s := by rw [hp, ← h]

/-- The merge leaves the push empty, so a second merge does nothing. -/
theorem State.mergeDelta_mergeDelta (s : State) : s.mergeDelta.mergeDelta = s.mergeDelta :=
  State.mergeDelta_of_empty rfl

/-- Repeating a command that loads, commits or only responds does nothing more (20_memory.md R59). The response of the
first execution is not read by the second, so only what the command writes counts. -/
theorem execNext_execNext_of_repeatable {i : Instr} (hi : Repeatable i) (s : State) :
    execNext i (execNext i s) = execNext i s := by
  cases i with
  | nop | sample | snapshot | gen a b => exact execNext_respond _ s _
  | ldd sel a =>
    simp only [execNext]
    cases paramSel sel with
    | some f =>
      show ((s.loadDelta f a).loadDelta f a).respond .none = (s.loadDelta f a).respond .none
      rw [State.loadDelta_loadDelta]
    | none => rfl
  | apply =>
    show s.mergeDelta.mergeDelta.respond .none = s.mergeDelta.respond .none
    rw [State.mergeDelta_mergeDelta]
  | ldc sel a =>
    simp only [execNext]
    cases coefSel sel with
    | some f =>
      show ((s.loadCoef f a).loadCoef f a).respond .none = (s.loadCoef f a).respond .none
      rw [State.loadCoef_loadCoef]
    | none => rfl
  | setcoef | fctl a => rfl
  | advance a | proc | tick a => exact hi.elim

/-- Settles O54: what the command answers at `t`, the state it answered, is `t` again. -/
theorem repeatableCommandsAreIdempotent : Obligations.RepeatableCommandsAreIdempotent := by
  intro i s t hi ht
  obtain rfl := (exec_next_iff i s t).1 ht
  rw [exec_eq, execNext_execNext_of_repeatable hi]

theorem decode_tableWord_of_decodeTableWord {w : Nat} {i : Instr} (h : decodeTableWord 72 w = some i) :
    decode (tableWord 72 w) = .ok i := by
  rw [decodeTableWord, if_pos le_rfl] at h
  cases hdec : decode (tableWord 72 w) with
  | ok j =>
    rw [hdec] at h
    cases h
    rfl
  | error e =>
    rw [hdec] at h
    cases h

/-- Settles O8: the step takes the presented word off the inputs again, and its effect is that of its command. -/
theorem presentedTableWordRuns : Obligations.PresentedTableWordRuns := by
  intro s w i hdec
  calc step (s.withFetchWord 72 w)
      = execWord (tableWord 72 w) s := step_word rfl
    _ = exec i s := execWord_of_decode (decode_tableWord_of_decodeTableWord hdec) s

/-- Settles O11: of two one-bit strings put together the low bit is the second and the high bit the first. -/
theorem statusIsSatIll : Obligations.StatusIsSatIll := by
  intro s
  simp only [State.status, BitVec.getLsbD_append, BitVec.getLsbD_ofBool]
  exact ⟨by simp, by simp⟩

end Sys2Proof.Machine

/-! PROOFS. 30_encoding.md R71, R75, R76, R80: which words decode to a command, and which are rejected and why. -/
namespace Sys2Proof

/-- A word has the opcode of a command, and its operands in the fields that its row of the opcode map names (30_encoding.md
R72, R74, R76). -/
def Spells (w : CmdWord) (i : Instr) : Prop :=
  opField w = opcode i ∧
  match i with
  | .ldd sel a | .ldc sel a => selField w = sel ∧ aField w = a
  | .gen a b => bField w = b ∧ aField w = a
  | .advance a | .fctl a | .tick a => aField w = a
  | .nop | .apply | .sample | .snapshot | .setcoef | .proc => True

/-- A word spells a command exactly when the two agree on the bits the command uses: a mask keeps or clears whole fields. -/
theorem and_usedBits_eq_encode_iff (w : CmdWord) (i : Instr) : w &&& usedBits i = encode i ↔ Spells w i := by
  rw [← cmdWord_fields w]
  cases i <;>
    simp [usedBits, encode, Spells, cmdWord_and, cmdWord_inj, opField_cmdWord, selField_cmdWord, bField_cmdWord,
      aField_cmdWord, sel_and_full, word_and_full]

theorem Spells.of_decode {w : CmdWord} {i : Instr} (h : decode w = .ok i) : Spells w i := by
  unfold decode at h
  repeat' split at h
  all_goals cases h
  all_goals simp [Spells, opcode, ← BitVec.toNat_inj, *]

theorem Spells.decode_eq {w : CmdWord} {i : Instr} (h : Spells w i) (hwf : wellFormed i = true) : decode w = .ok i := by
  obtain ⟨hop, hoperands⟩ := h
  cases i with
  | ldd sel a | ldc sel a =>
    obtain ⟨rfl, rfl⟩ := hoperands
    simp [decode, hop, opcode, show legalSel (selField w) = true from hwf]
  | gen a b =>
    obtain ⟨rfl, rfl⟩ := hoperands
    simp [decode, hop, opcode]
  | advance a | fctl a | tick a =>
    obtain rfl := hoperands
    simp [decode, hop, opcode]
  | nop | apply | sample | snapshot | setcoef | proc => simp [decode, hop, opcode]

/-- The words of a command are those that spell it, if it is legal (R71). -/
theorem decode_eq_ok_iff (w : CmdWord) (i : Instr) : decode w = .ok i ↔ wellFormed i = true ∧ Spells w i :=
  ⟨fun h => ⟨wellFormed_of_decode h, .of_decode h⟩, fun ⟨hwf, h⟩ => h.decode_eq hwf⟩

/-- Settles O14: the bits of a command that a word has to have are those that make it spell the command. -/
theorem decodeReadsExactlyUsedBits : Obligations.DecodeReadsExactlyUsedBits := fun w i =>
  (decode_eq_ok_iff w i).trans (and_congr_right' (and_usedBits_eq_encode_iff w i).symm)

/-- The canonical word has no bit outside the used ones (R75). -/
theorem encode_and_usedBits : (i : Instr) → encode i &&& usedBits i = encode i
  | .nop => Laws.EncodeFields.nop.2
  | .ldd sel a => (Laws.EncodeFields.ldd sel a).2
  | .apply => Laws.EncodeFields.apply.2
  | .advance a => (Laws.EncodeFields.advance a).2
  | .sample => Laws.EncodeFields.sample.2
  | .snapshot => Laws.EncodeFields.snapshot.2
  | .gen a b => (Laws.EncodeFields.gen a b).2
  | .ldc sel a => (Laws.EncodeFields.ldc sel a).2
  | .setcoef => Laws.EncodeFields.setcoef.2
  | .fctl a => (Laws.EncodeFields.fctl a).2
  | .proc => Laws.EncodeFields.proc.2
  | .tick a => (Laws.EncodeFields.tick a).2

/-- Settles O13: on the bits the command uses, its canonical word is itself. -/
theorem decodeOfEncode : Obligations.DecodeOfEncode := fun i hwf =>
  (decodeReadsExactlyUsedBits (encode i) i).2 ⟨hwf, encode_and_usedBits i⟩

/-- A reserved opcode (R80). -/
theorem decode_of_reserved_opcode {w : CmdWord} (h : 0xC ≤ (opField w).toNat) :
    decode w = .error (.reservedOpcode (opField w)) := by
  unfold decode
  split <;> try omega
  rfl

/-- A reserved selector (R74, R80). -/
theorem decode_of_reserved_selector {w : CmdWord} (hop : opField w = 0x1 ∨ opField w = 0x7)
    (hsel : 5 ≤ (selField w).toNat) : decode w = .error (.reservedSelector (opField w) (selField w)) := by
  have hreserved : legalSel (selField w) = false := by simp [legalSel]; omega
  obtain hop | hop := hop
  · simp [decode, hop, hreserved]
  · simp [decode, hop, hreserved]

/-- The reason for which an illegal word is rejected (R80). -/
theorem decode_of_illegalWord {w : CmdWord} (h : Machine.IllegalWord w) :
    (decode w = .error (.reservedOpcode (opField w)) ∧ 0xC ≤ (opField w).toNat) ∨
    (decode w = .error (.reservedSelector (opField w) (selField w)) ∧ (opField w = 0x1 ∨ opField w = 0x7) ∧
      5 ≤ (selField w).toNat) := by
  obtain hop | ⟨hop, hsel⟩ := h
  · exact .inl ⟨decode_of_reserved_opcode hop, hop⟩
  · have hop' : opField w = 0x1 ∨ opField w = 0x7 := by simpa [← BitVec.toNat_inj] using hop
    exact .inr ⟨decode_of_reserved_selector hop' hsel, hop', hsel⟩

theorem exists_decode_error_iff (w : CmdWord) : (∃ e, decode w = .error e) ↔ Machine.IllegalWord w := by
  constructor
  · rintro ⟨e, h⟩
    exact illegalWord_of_decode_error h
  · intro h
    obtain ⟨h, -⟩ | ⟨h, -⟩ := decode_of_illegalWord h
    · exact ⟨_, h⟩
    · exact ⟨_, h⟩

/-- Settles O15: a rejected word is illegal, and an illegal word has one reason to be rejected. -/
theorem decoderRejectsExactlyIllegalWords : Obligations.DecoderRejectsExactlyIllegalWords := by
  refine fun w => ⟨exists_decode_error_iff w, fun e he => ?_, fun i => wellFormed_of_decode⟩
  have hreason := decode_of_illegalWord (illegalWord_of_decode_error he)
  simpa only [he, Except.error.injEq] using hreason

/-- Settles O12, word by word. -/
theorem workedWordsDecode : Obligations.WorkedWordsDecode :=
  ⟨rfl, rfl, rfl, rfl, rfl, rfl, rfl, rfl, rfl, rfl, rfl, rfl, rfl, rfl, rfl, rfl, rfl⟩

namespace Machine

/-- Settles O6: the step is the effect of the word, which for a rejected word is the flag alone. -/
theorem illegalWordSetsIllOnly : Obligations.IllegalWordSetsIllOnly := by
  intro s w rest hpins hw
  obtain ⟨e, he⟩ := (exists_decode_error_iff w).2 hw
  rw [step_word hpins, execWord, he]

/-- The response of a command has the kind that R78 lists for it. -/
theorem execNext_rsp_kind (i : Instr) (s : State) : (execNext i s).rsp.kind = responseKind i := by
  have hprocess : s.processLegs.rsp.kind = 2 := by
    rw [State.processLegs_eq]
    cases s.fen <;> rfl
  cases i with
  | ldd sel a => simp only [execNext]; cases paramSel sel <;> rfl
  | ldc sel a => simp only [execNext]; cases coefSel sel <;> rfl
  | proc | tick a => exact hprocess
  | _ => rfl

/-- Settles O49: every command answers a next state, and its response is of the command's kind. -/
theorem eachCommandRespondsWithItsKind : Obligations.EachCommandRespondsWithItsKind := fun i s =>
  ⟨execNext i s, exec_eq i s, execNext_rsp_kind i s⟩

end Machine
end Sys2Proof

/-! PROOFS. 30_encoding.md R85: the pseudo-instructions, executed. -/
namespace Sys2Proof.Machine

/-- The next state of a sequence of commands, each executed in the next state of the one before it. -/
def execAllNext : List Instr → State → State
  | [], s => s
  | i :: is, s => execAllNext is (execNext i s)

/-- A sequence of commands never stops early (20_memory.md R60, 60_exceptions.md R190). -/
theorem execAll_eq (is : List Instr) (s : State) : execAll is s = .next (execAllNext is s) := by
  induction is generalizing s with
  | nil => rfl
  | cons i is ih =>
    rw [execAll, exec_eq]
    exact ih (execNext i s)

theorem execAllNext_append (is js : List Instr) (s : State) :
    execAllNext (is ++ js) s = execAllNext js (execAllNext is s) := by
  induction is generalizing s with
  | nil => rfl
  | cons i is ih => exact ih (execNext i s)

/-- What a merge brings to a field after `LDD` of a value that `SETP` may name: that value if it is named and the field is
the selected one, else what it would have brought before (40_phase_accumulator.md R102, R103). -/
theorem mergeDelta_get_after_lddIf (sel : BitVec 4) (v : Option Word) (s : State) (g : ParamSel) :
    (execAllNext (Asm.lddIf sel v) s).mergeDelta.p.get g =
      if paramSel sel = some g then v.getD (s.mergeDelta.p.get g) else s.mergeDelta.p.get g := by
  cases v with
  | none => exact (ite_self _).symm
  | some a =>
    show (execNext (.ldd sel a) s).mergeDelta.p.get g = _
    simp only [execNext]
    cases paramSel sel with
    | none => rfl
    | some f =>
      show (s.loadDelta f a).mergeDelta.p.get g = _
      rw [State.mergeDelta_get, State.loadDelta_dmask, dmask_set, State.loadDelta_d, State.loadDelta_p, Params.get_set,
        State.mergeDelta_get]
      by_cases h : f = g <;> simp [h]

/-- The value that `SETP` names for a field, if it names one (R85). -/
def setpValue (freq volt phase cfreq pmode : Option Word) : ParamSel → Option Word
  | .freq => freq
  | .volt => volt
  | .phase => phase
  | .cfreq => cfreq
  | .pmode => pmode

/-- `SETP` merges the named values, and for a field not named what was pending before it (R85, 70_reset_and_hazards.md R214). -/
theorem execAll_setp (s : State) (freq volt phase cfreq pmode : Option Word) :
    ∃ t, execAll (Asm.Line.setp freq volt phase cfreq pmode).expand s = .next t ∧ t.dmask = 0 ∧
      ∀ g, t.p.get g = (setpValue freq volt phase cfreq pmode g).getD
        (if s.dmask.getLsbD g.index then s.d.get g else s.p.get g) := by
  refine ⟨_, execAll_eq _ s, ?_, fun g => ?_⟩
  · simp [Asm.Line.expand, execAllNext_append, execAllNext, execNext]
  · simp only [Asm.Line.expand, execAllNext_append, execAllNext, execNext, State.respond_p, mergeDelta_get_after_lddIf,
      ← State.mergeDelta_get]
    cases g <;> rfl

/-- `SETFILT` commits the five values it loads and keeps the histories (R85, 42_biquad_filter.md R161, R162). -/
theorem execAll_setfilt (s : State) (b0 b1 b2 a1 a2 : Word) :
    ∃ t, execAll (Asm.Line.setfilt b0 b1 b2 a1 a2).expand s = .next t ∧ t.c = ⟨b0, b1, b2, a1, a2⟩ ∧ t.h = s.h := by
  refine ⟨_, execAll_eq _ s, ?_, ?_⟩
  · simp [Asm.Line.expand, execAllNext, execNext, coefSel, Coefs.set]
  · simp [Asm.Line.expand, execAllNext, execNext, coefSel]

/-- Settles O59. `SETALL` is `SETP` with all five fields named. -/
theorem pseudoInstructionsDoWhatTheyName : Obligations.PseudoInstructionsDoWhatTheyName := by
  refine fun s => ⟨fun f v ph cf pm => ?_, fun f v ph cf pm => ?_,
    execAll_setfilt s, rfl, rfl⟩
  · obtain ⟨t, ht, hmask, hp⟩ := execAll_setp s f v ph cf pm
    exact ⟨t, ht, hmask, hp .freq, hp .volt, hp .phase, hp .cfreq, hp .pmode⟩
  · obtain ⟨t, ht, hmask, hp⟩ := execAll_setp s (some f) (some v) (some ph) (some cf) (some pm)
    refine ⟨t, ht, hmask, Params.ext_get _ _ fun g => (hp g).trans ?_⟩
    cases g <;> rfl

end Sys2Proof.Machine

/-! PROOFS. 40_phase_accumulator.md R105 to R107: `ADVANCE`, one step and several. In words, a step adds its increment to the
phase, so a sequence of steps adds the sum of the increments; what is left is how floors add up. -/
namespace Sys2Proof.Machine

theorem u32_add (v v' : Int) : u32 (v + v') = u32 v + u32 v' := BitVec.ofInt_add v v'

/-- The increment is the floor of the exact rational number (R105). -/
theorem phaseInc_eq_floor (f a : Word) : phaseInc f a = ⌊(f.toNat : ℚ) * a.toInt / 2 ^ 16⌋ := by
  have h := Rat.floor_intCast_div_natCast ((f.toNat : ℤ) * s32 a) (2 ^ 16)
  push_cast at h
  exact h.symm

/-- The wrap of a step is that of the addition of words (R105). -/
theorem phaseStep_eq_add (phase f a : Word) : phaseStep phase f a = phase + u32 (phaseInc f a) := by
  rw [phaseStep, u32_add, u32_natCast]

/-- Settles O19: a step of `ADVANCE` writes the two phases, and the increment is the rational floor. -/
theorem advanceIntegratesBothPhases : Obligations.AdvanceIntegratesBothPhases := by
  refine ⟨fun w hop => Spells.decode_eq ⟨hop, rfl⟩ rfl, fun s a => ⟨_, _, exec_eq (.advance a) s, ?_, ?_⟩⟩
  · rw [← phaseInc_eq_floor]
    exact phaseStep_toNat s.th s.p.freq a
  · rw [← phaseInc_eq_floor]
    exact phaseStep_toNat s.ct s.p.cfreq a

/-- A sequence of steps adds the sum of the increments to each phase: no step changes a frequency (R105). -/
theorem execAllNext_advance (as : List Word) (s : State) :
    (execAllNext (as.map Instr.advance) s).th = s.th + u32 (as.map (phaseInc s.p.freq)).sum ∧
    (execAllNext (as.map Instr.advance) s).ct = s.ct + u32 (as.map (phaseInc s.p.cfreq)).sum := by
  induction as generalizing s with
  | nil => exact ⟨(BitVec.add_zero s.th).symm, (BitVec.add_zero s.ct).symm⟩
  | cons a as ih =>
    obtain ⟨hth, hct⟩ := ih (execNext (.advance a) s)
    simp only [List.map_cons, List.sum_cons, execAllNext, u32_add, ← BitVec.add_assoc, ← phaseStep_eq_add]
    exact ⟨hth, hct⟩

/-- The exact products of several steps are their increments and what the floors drop: less than `2 ^ 16` each, and
nothing at a whole number of Hz (R107). -/
theorem phaseInc_sum_balance (f : Word) (as : List Word) : ∃ r : Nat, r ≤ as.length * (2 ^ 16 - 1) ∧
    (f.toNat : Int) * (as.map s32).sum = (as.map (phaseInc f)).sum * 2 ^ 16 + r ∧ (f.toNat % 2 ^ 16 = 0 → r = 0) := by
  induction as with
  | nil => exact ⟨0, by simp⟩
  | cons a as ih =>
    obtain ⟨r, hr, hsum, hwhole⟩ := ih
    have hdrop : f.toNat % 2 ^ 16 = 0 → (f.toNat : Int) * s32 a % 2 ^ 16 = 0 := fun h => by
      have hdvd : (2 ^ 16 : Int) ∣ f.toNat := by omega
      exact Int.emod_eq_zero_of_dvd (hdvd.mul_right _)
    refine ⟨r + ((f.toNat : Int) * s32 a % 2 ^ 16).toNat, ?_⟩
    simp only [List.map_cons, List.sum_cons, List.length_cons, mul_add, hsum, phaseInc]
    generalize (f.toNat : Int) * s32 a = prod at *
    omega

/-- One step of the sum of the operands is ahead of the steps by what their floors drop together, at most one unit less
than there are steps (R107). -/
theorem phaseStep_sum (phase f A : Word) (as : List Word) (hsum : (as.map s32).sum = s32 A) :
    ∃ e : Nat, e ≤ as.length - 1 ∧
      phaseStep phase f A = phase + u32 (as.map (phaseInc f)).sum + BitVec.ofNat 32 e ∧ (f.toNat % 2 ^ 16 = 0 → e = 0) := by
  obtain ⟨r, hr, hbalance, hwhole⟩ := phaseInc_sum_balance f as
  have hinc : phaseInc f A = (as.map (phaseInc f)).sum + (r / 2 ^ 16 : Nat) := by
    rw [phaseInc, ← hsum, hbalance]
    omega
  refine ⟨r / 2 ^ 16, by omega, ?_, fun h => by rw [hwhole h, Nat.zero_div]⟩
  rw [phaseStep_eq_add, hinc, u32_add, BitVec.add_assoc]
  exact congrArg _ (congrArg _ (BitVec.ofInt_natCast 32 _))

/-- Settles O23: the bound holds for any phase and frequency (and for the empty list, where both sides stand still). -/
theorem splitAdvanceStaysWithinStepCount : Obligations.SplitAdvanceStaysWithinStepCount := by
  intro s t t' as A _ hsum ht ht'
  rw [execAll_eq] at ht
  cases ht
  obtain rfl := (exec_next_iff _ _ _).1 ht'
  obtain ⟨hth, hct⟩ := execAllNext_advance as s
  rw [hth, hct]
  exact ⟨phaseStep_sum s.th s.p.freq A as hsum, phaseStep_sum s.ct s.p.cfreq A as hsum⟩

/-- At a whole number of Hz the floor is exact, and a step adds that many times its operand (R106(d)). -/
theorem phaseStep_of_wholeHertz {f : Word} (hf : f.toNat % 2 ^ 16 = 0) (phase a : Word) :
    phaseStep phase f a = phase + BitVec.ofNat 32 (f.toNat / 2 ^ 16) * a := by
  have hinc : phaseInc f a = (f.toNat / 2 ^ 16 : Nat) * s32 a := by
    obtain ⟨k, hk⟩ := Nat.dvd_of_mod_eq_zero hf
    rw [phaseInc, hk, Nat.mul_div_cancel_left _ (by decide), Nat.cast_mul, mul_assoc]
    exact Int.mul_ediv_cancel_left _ (by decide)
  rw [phaseStep_eq_add, hinc, u32, BitVec.ofInt_mul, BitVec.ofInt_natCast]
  exact congrArg (phase + _ * ·) (u32_s32 a)

/-- As words, `-a` is the inverse of `a` even for the most negative operand, so the two steps add nothing (R106(d)). -/
theorem phaseStep_undone {f : Word} (hf : f.toNat % 2 ^ 16 = 0) (phase a : Word) :
    phaseStep (phaseStep phase f a) f (-a) = phase := by
  rw [phaseStep_of_wholeHertz hf, phaseStep_of_wholeHertz hf]
  ring

/-- Settles O24, phase by phase. -/
theorem wholeHertzAdvanceIsUndone : Obligations.WholeHertzAdvanceIsUndone := by
  intro s a hfreq hcfreq
  have hth := phaseStep_undone hfreq s.th a
  have hct := phaseStep_undone hcfreq s.ct a
  simp only [execAll_eq, execAllNext, execNext, State.advancePhases, State.respond, hth, hct]

end Sys2Proof.Machine

/-! PROOFS. 40_phase_accumulator.md R100 to R103, R108, R110: the commands of the phase accumulator that do not integrate.
Each has the words of its opcode (30_encoding.md R76), with any value in the fields it does not use (R75). -/
namespace Sys2Proof.Machine

/-- Settles O16: `NOP` writes no more than the response. -/
theorem nopChangesNothing : Obligations.NopChangesNothing :=
  ⟨fun _ hop => Spells.decode_eq ⟨hop, trivial⟩ rfl, exec_eq .nop⟩

/-- `LDD` of a selector that names a register (R102). -/
theorem exec_ldd_of_index {sel : BitVec 4} {f : ParamSel} (h : sel.toNat = f.index) (a : Word) (s : State) :
    exec (.ldd sel a) s = .next ((s.loadDelta f a).respond .none) := by
  rw [exec_eq, execNext, (paramSel_some sel f).2 h]

/-- `LDD` of a reserved selector (R102). -/
theorem exec_ldd_of_reserved {sel : BitVec 4} (h : 5 ≤ sel.toNat) (a : Word) (s : State) :
    exec (.ldd sel a) s = .next s.rejectWord := by
  rw [exec_eq, execNext, (paramSel_none_iff sel).2 h]

/-- Settles O17, selector by selector. -/
theorem lddLoadsOneFieldOrFlagsIll : Obligations.LddLoadsOneFieldOrFlagsIll := by
  refine ⟨fun w hop => ⟨fun hsel => ?_, fun hsel => ?_⟩, fun s a => ⟨?_, ?_, ?_, ?_, ?_, fun sel hsel => ?_⟩⟩
  · exact Spells.decode_eq ⟨hop, rfl, rfl⟩ ((legalSel_iff _).2 hsel)
  · exact .inr ⟨.inl (congrArg BitVec.toNat hop), hsel⟩
  · exact exec_ldd_of_index (f := .freq) rfl a s
  · exact exec_ldd_of_index (f := .volt) rfl a s
  · exact exec_ldd_of_index (f := .phase) rfl a s
  · exact exec_ldd_of_index (f := .cfreq) rfl a s
  · exact exec_ldd_of_index (f := .pmode) rfl a s
  · exact exec_ldd_of_reserved hsel a s

/-- The merge, with all five registers of the result written out (R103). -/
theorem State.mergeDelta_p (s : State) : s.mergeDelta.p =
    { freq := if s.dmask.getLsbD 0 then s.d.freq else s.p.freq
      volt := if s.dmask.getLsbD 1 then s.d.volt else s.p.volt
      phase := if s.dmask.getLsbD 2 then s.d.phase else s.p.phase
      cfreq := if s.dmask.getLsbD 3 then s.d.cfreq else s.p.cfreq
      pmode := if s.dmask.getLsbD 4 then s.d.pmode else s.p.pmode } := by
  refine Params.ext_get _ _ fun f => ?_
  rw [State.mergeDelta_get]
  cases f <;> rfl

/-- Settles O18: `APPLY` merges, and of the parameters and the mask apart a merge changes nothing. -/
theorem applyMergesPresentFields : Obligations.ApplyMergesPresentFields := by
  refine ⟨fun w hop => Spells.decode_eq ⟨hop, trivial⟩ rfl, fun s => ?_⟩
  rw [← State.mergeDelta_p]
  exact exec_eq .apply s

theorem Leg.bit_eq (l : Leg) : l.bit = if l = .pos then 1 else 0 := by cases l <;> rfl

/-- Settles O20: `SAMPLE` writes no more than the response, and the angle of `generate` is the one it was given. -/
theorem sampleRespondsComparatorOutput : Obligations.SampleRespondsComparatorOutput := by
  refine ⟨fun w hop => Spells.decode_eq ⟨hop, trivial⟩ rfl, fun s => ?_⟩
  simp only [← Leg.bit_eq]
  exact exec_eq .sample s

/-- Settles O21: `SNAPSHOT` writes no more than the response. -/
theorem snapshotCopiesParametersAndPhases : Obligations.SnapshotCopiesParametersAndPhases :=
  ⟨fun _ hop => Spells.decode_eq ⟨hop, trivial⟩ rfl, exec_eq .snapshot⟩

end Sys2Proof.Machine

/-! PROOFS. 41_pwm_generator.md R139, R140, R144: the sine function, as a floor. Before its one rounding the interpolation is
the chord of a table interval; the properties of `SIN` are those of the chord, divided by `2^22` and rounded down. -/
namespace Sys2Proof.Machine

/-- Every table entry but the first is at least the second, and none exceeds `1.0` (R138). -/
theorem sineEntry_bounds {k : Nat} (h0 : 0 < k) (hk : k ≤ 256) : 6588356 ≤ sineEntry k ∧ sineEntry k ≤ 2 ^ 30 := by
  have key : ∀ k ∈ List.range 257, 0 < k → 6588356 ≤ sineEntry k ∧ sineEntry k ≤ 2 ^ 30 := by decide +kernel
  exact key k (List.mem_range.2 (by omega)) h0

/-- The four quarters of `qsin`; where two of them meet they agree (R139). -/
theorem qsin_quarters {k : Nat} (hk : k ≤ 256) :
    qsin k = sineEntry k ∧ qsin (256 + k) = sineEntry (256 - k) ∧ qsin (512 + k) = -sineEntry k ∧
      qsin (768 + k) = -sineEntry (256 - k) := by
  obtain rfl | h0 := Nat.eq_zero_or_pos k
  · exact ⟨rfl, rfl, rfl, rfl⟩
  refine ⟨if_pos hk, ?_, ?_, ?_⟩
  · rw [qsin, if_neg (by omega), if_pos (by omega), show 512 - (256 + k) = 256 - k by omega]
  · rw [qsin, if_neg (by omega), if_neg (by omega), if_pos (by omega), Nat.add_sub_cancel_left]
  · rw [qsin, if_neg (by omega), if_neg (by omega), if_neg (by omega), show 1024 - (768 + k) = 256 - k by omega]

/-- The table of the whole turn is odd. -/
theorem qsin_neg {k : Nat} (hk : k ≤ 1024) : qsin (1024 - k) = -qsin k := by
  have firstHalf : ∀ k ≤ 512, qsin (1024 - k) = -qsin k := by
    intro k hk
    obtain hq | hq := Nat.le_total k 256
    · obtain ⟨h1, -⟩ := qsin_quarters hq
      obtain ⟨-, -, -, h4⟩ := qsin_quarters (Nat.sub_le 256 k)
      rw [h1, show 1024 - k = 768 + (256 - k) by omega, h4, Nat.sub_sub_self hq]
    · obtain ⟨r, rfl⟩ := Nat.exists_eq_add_of_le hq
      have hr : r ≤ 256 := by omega
      obtain ⟨-, h2, -⟩ := qsin_quarters hr
      obtain ⟨-, -, h3, -⟩ := qsin_quarters (Nat.sub_le 256 r)
      rw [h2, show 1024 - (256 + r) = 512 + (256 - r) by omega, h3]
  obtain h | h := Nat.le_total k 512
  · exact firstHalf k h
  · rw [← neg_eq_iff_eq_neg, ← firstHalf (1024 - k) (by omega), Nat.sub_sub_self hk]

/-- Inside the first half turn the table is at least its entry next to zero. -/
theorem qsin_bounds_of_firstHalf {k : Nat} (h0 : 0 < k) (hk : k < 512) : 6588356 ≤ qsin k ∧ qsin k ≤ 2 ^ 30 := by
  obtain hq | hq := Nat.le_total k 256
  · obtain ⟨hquarter, -⟩ := qsin_quarters hq
    rw [hquarter]
    exact sineEntry_bounds h0 hq
  · obtain ⟨r, rfl⟩ := Nat.exists_eq_add_of_le hq
    obtain ⟨-, hquarter, -⟩ := qsin_quarters (show r ≤ 256 by omega)
    rw [hquarter]
    exact sineEntry_bounds (by omega) (by omega)

/-- Between the ends of the first half turn, both included, the table is not negative. -/
theorem qsin_nonneg_of_firstHalf {k : Nat} (hk : k ≤ 512) : 0 ≤ qsin k ∧ qsin k ≤ 2 ^ 30 := by
  obtain rfl | h0 := Nat.eq_zero_or_pos k
  · decide
  obtain rfl | h512 := Nat.eq_or_lt_of_le hk
  · decide
  have := qsin_bounds_of_firstHalf h0 h512
  omega

theorem qsin_bounds {k : Nat} (hk : k ≤ 1024) : -2 ^ 30 ≤ qsin k ∧ qsin k ≤ 2 ^ 30 := by
  obtain h | h := Nat.le_total k 512
  · have := qsin_nonneg_of_firstHalf h
    omega
  · have := qsin_nonneg_of_firstHalf (show 1024 - k ≤ 512 by omega)
    rw [qsin_neg hk] at this
    omega

/-- The interpolation of R139 before its rounding, scaled by `2^22`: the mean of the two table entries at the ends of the
interval, weighted by the position. -/
def sineChord (p : Word) : Int :=
  qsin (sineInterval p) * (2 ^ 22 - sinePosition p) + qsin (sineInterval p + 1) * sinePosition p

/-- `SIN` rounds the chord down, once (R139). -/
theorem sin_eq_sineChord_div (p : Word) : sin p = sineChord p / 2 ^ 22 := by
  rw [sin, add_comm, ← Int.add_mul_ediv_right _ _ (by decide), sineChord]
  congr 1
  ring

/-- The chord by interval and position, either interval where two of them meet, and around the end of the turn. -/
theorem sineChord_eq {p : Word} {i f : Nat} (hi : i < 1024) (hf : f ≤ 2 ^ 22) (hp : p.toNat = (i * 2 ^ 22 + f) % 2 ^ 32) :
    sineChord p = qsin i * (2 ^ 22 - f) + qsin (i + 1) * f := by
  obtain hlt | rfl := hf.lt_or_eq
  · have hinterval : sineInterval p = i := by rw [sineInterval]; omega
    have hposition : sinePosition p = f := by rw [sinePosition]; omega
    rw [sineChord, hinterval, hposition]
  · have hclosed : qsin (sineInterval p) = qsin (i + 1) := by
      obtain hend | hend : i + 1 = 1024 ∨ i + 1 < 1024 := by omega
      · rw [hend, show sineInterval p = 0 by rw [sineInterval]; omega]
        exact qsin_closes.symm
      · rw [show sineInterval p = i + 1 by rw [sineInterval]; omega]
    have hposition : sinePosition p = 0 := by rw [sinePosition]; omega
    rw [sineChord, hclosed, hposition]
    push_cast
    ring

theorem toNat_eq_interval_position (p : Word) : p.toNat = sineInterval p * 2 ^ 22 + sinePosition p :=
  (Nat.div_add_mod' _ _).symm

/-- One unit of the angle moves the chord by the table difference of its interval (R144). -/
theorem sineChord_succ (p : Word) :
    sineChord (p + 1) = sineChord p + (qsin (sineInterval p + 1) - qsin (sineInterval p)) := by
  have hp := toNat_eq_interval_position p
  have hsucc : (p + 1).toNat = (sineInterval p * 2 ^ 22 + (sinePosition p + 1)) % 2 ^ 32 := by
    rw [BitVec.toNat_add, hp, show (1 : Word).toNat = 1 from rfl, Nat.add_assoc]
  rw [sineChord_eq (sineInterval_lt p) (sinePosition_lt p) hsucc, sineChord]
  push_cast
  ring

/-- The chord is odd (R140(d)): only the floor is not. -/
theorem sineChord_neg (p : Word) : sineChord (-p) = -sineChord p := by
  have hi := sineInterval_lt p
  have hf := sinePosition_lt p
  have hneg : (-p).toNat = ((1023 - sineInterval p) * 2 ^ 22 + (2 ^ 22 - sinePosition p)) % 2 ^ 32 := by
    have hp := toNat_eq_interval_position p
    rw [BitVec.toNat_neg]
    omega
  have hlow := qsin_neg (show sineInterval p + 1 ≤ 1024 by omega)
  have hhigh := qsin_neg (show sineInterval p ≤ 1024 by omega)
  rw [sineChord_eq (by omega) (by omega) hneg, show 1023 - sineInterval p + 1 = 1024 - sineInterval p by omega,
    show 1023 - sineInterval p = 1024 - (sineInterval p + 1) by omega, hlow, hhigh, sineChord, Nat.cast_sub hf.le]
  push_cast
  ring

/-- A weighted mean lies where both of its ends lie (R140(b)). -/
theorem sineChord_bounds (p : Word) : -2 ^ 52 ≤ sineChord p ∧ sineChord p ≤ 2 ^ 52 := by
  have hi := sineInterval_lt p
  have hf := sinePosition_lt p
  obtain ⟨hlow, hlow'⟩ := qsin_bounds hi.le
  obtain ⟨hhigh, hhigh'⟩ := qsin_bounds (Nat.succ_le_of_lt hi)
  rw [sineChord]
  constructor <;> nlinarith

/-- Inside the first half turn the chord is a whole unit of `SIN` above zero (R140(c)). -/
theorem sineChord_ge_of_firstHalf {p : Word} (h0 : 0 < p.toNat) (hp : p.toNat < 2 ^ 31) : 2 ^ 22 ≤ sineChord p := by
  have hsplit := toNat_eq_interval_position p
  have hf := sinePosition_lt p
  rw [sineChord]
  generalize sineInterval p = i at *
  generalize sinePosition p = f at *
  obtain rfl | hi0 := Nat.eq_zero_or_pos i
  · rw [show qsin 0 = 0 from rfl, show qsin (0 + 1) = 6588356 from rfl]
    omega
  have hlow := qsin_bounds_of_firstHalf hi0 (by omega)
  obtain ⟨hhigh, -⟩ := qsin_nonneg_of_firstHalf (show i + 1 ≤ 512 by omega)
  nlinarith [mul_nonneg hhigh (Int.natCast_nonneg f)]

/-- Where the chord is zero, positive and negative (R140(c)). -/
theorem sineChord_sign (p : Word) :
    ((p = 0 ∨ p = 0x80000000) ∧ sineChord p = 0) ∨ (0 < p.toNat ∧ p.toNat < 2 ^ 31 ∧ 2 ^ 22 ≤ sineChord p) ∨
      (2 ^ 31 < p.toNat ∧ sineChord p ≤ -2 ^ 22) := by
  by_cases h0 : p = 0
  · subst h0
    exact .inl ⟨.inl rfl, by decide +kernel⟩
  by_cases h1 : p = 0x80000000
  · subst h1
    exact .inl ⟨.inr rfl, by decide +kernel⟩
  rw [← BitVec.toNat_inj] at h0 h1
  have hzero : (0 : Word).toNat = 0 := rfl
  have hhalf : (0x80000000 : Word).toNat = 2 ^ 31 := rfl
  obtain hp | hp := Nat.lt_or_ge p.toNat (2 ^ 31)
  · exact .inr (.inl ⟨by omega, hp, sineChord_ge_of_firstHalf (by omega) hp⟩)
  · have hneg : (-p).toNat = 2 ^ 32 - p.toNat := by
      rw [BitVec.toNat_neg]
      omega
    have := sineChord_ge_of_firstHalf (p := -p) (by omega) (by omega)
    rw [sineChord_neg] at this
    exact .inr (.inr ⟨by omega, by omega⟩)

theorem sin_bounds (p : Word) : -2 ^ 30 ≤ sin p ∧ sin p ≤ 2 ^ 30 := by
  have := sineChord_bounds p
  rw [sin_eq_sineChord_div]
  omega

/-- Within one interval the chord moves by the table difference for each unit of the position (R140(e)). -/
theorem sineChord_sub_of_sameInterval {p q : Word} (h : sineInterval p = sineInterval q) :
    sineChord q - sineChord p =
      (qsin (sineInterval p + 1) - qsin (sineInterval p)) * (sinePosition q - sinePosition p : Int) := by
  rw [sineChord, sineChord, ← h]
  ring

/-- Settles O33: each property of `SIN` is one of the chord. -/
theorem sineHasStatedProperties : Obligations.SineHasStatedProperties := by
  refine ⟨by decide +kernel, sin_bounds, fun p => ?_, ⟨fun p => ?_, by decide +kernel⟩, fun p q hi hf => ?_⟩
  · rw [sin_eq_sineChord_div]
    obtain ⟨hp, hchord⟩ | ⟨h0, hp, hchord⟩ | ⟨hp, hchord⟩ := sineChord_sign p
    · rw [hchord]
      exact ⟨fun _ => le_rfl, fun _ => le_rfl, iff_of_true rfl hp⟩
    · refine ⟨by omega, by omega, iff_of_false (by omega) ?_⟩
      rintro (rfl | rfl) <;> contradiction
    · refine ⟨by omega, by omega, iff_of_false (by omega) ?_⟩
      rintro (rfl | rfl) <;> contradiction
  · rw [sin_eq_sineChord_div, sin_eq_sineChord_div, sineChord_neg]
    omega
  · have hmove := sineChord_sub_of_sameInterval hi
    have hforward : (0 : Int) ≤ sinePosition q - sinePosition p := by omega
    rw [sin_eq_sineChord_div, sin_eq_sineChord_div]
    constructor
    · intro hrises
      have := mul_nonneg (sub_nonneg.2 hrises) hforward
      exact Int.ediv_le_ediv (by decide) (by omega)
    · intro hfalls
      have := mul_nonpos_of_nonpos_of_nonneg (sub_nonpos.2 hfalls) hforward
      exact Int.ediv_le_ediv (by decide) (by omega)

/-- Settles O34: the chord moves by a table difference, which is less than `2 * 2^22`. -/
theorem sineMovesAtMostTwoPerUnit : Obligations.SineMovesAtMostTwoPerUnit := by
  intro p
  have hstep := qsin_step _ (sineInterval_lt p)
  rw [sin_eq_sineChord_div, sin_eq_sineChord_div, sineChord_succ]
  omega

end Sys2Proof.Machine

/-! PROOFS. 41_pwm_generator.md R138, R139: the table is the true sine rounded, and `SIN` misses the true sine by what the
chord of an interval misses it, the rounding of the table and the floor. -/
namespace Sys2Proof.Machine

open Sys2Proof.Laws.RealSine

/-- The table against 20-digit rotations in integers: no scaled sine is within 1/1000 of a tie (R138). -/
theorem sineEntry_near_rotation {k : Nat} (hk : k ≤ 256) :
    -(499 * (10 ^ 20) ^ k) ≤ 1000 * (2 ^ 30 * (rotation k).2 - sineEntry k * (10 ^ 20) ^ k) ∧
    1000 * (2 ^ 30 * (rotation k).2 - sineEntry k * (10 ^ 20) ^ k) ≤ 499 * (10 ^ 20) ^ k := by
  have key : ∀ k ∈ List.range 257,
      -(499 * (10 ^ 20) ^ k) ≤ 1000 * (2 ^ 30 * (rotation k).2 - sineEntry k * (10 ^ 20) ^ k) ∧
      1000 * (2 ^ 30 * (rotation k).2 - sineEntry k * (10 ^ 20) ^ k) ≤ 499 * (10 ^ 20) ^ k := by
    decide +kernel
  exact key k (List.mem_range.2 (by omega))

/-- `2^30` times the sine of an angle in turns. -/
noncomputable def scaledSin (t : ℝ) : ℝ := 2 ^ 30 * Real.sin (2 * Real.pi * t)

theorem scaledSin_half_sub (t : ℝ) : scaledSin (1 / 2 - t) = scaledSin t := by
  rw [scaledSin, show 2 * Real.pi * (1 / 2 - t) = Real.pi - 2 * Real.pi * t by ring, Real.sin_pi_sub, scaledSin]

theorem scaledSin_one_sub (t : ℝ) : scaledSin (1 - t) = -scaledSin t := by
  rw [scaledSin, show 2 * Real.pi * (1 - t) = 2 * Real.pi - 2 * Real.pi * t by ring, Real.sin_two_pi_sub, scaledSin]
  ring

theorem sineEntry_near_scaledSin {k : Nat} (hk : k ≤ 256) : |scaledSin (k / 1024) - sineEntry k| < 1 / 2 := by
  have hD : (0 : ℝ) < (10 ^ 20) ^ k := by positivity
  have hrotation : |2 ^ 30 * (((rotation k).2 : ℝ) / (10 ^ 20) ^ k) - sineEntry k| ≤ 499 / 1000 := by
    obtain ⟨hlow, hhigh⟩ := sineEntry_near_rotation hk
    rify at hlow hhigh
    rw [mul_div_assoc', div_sub' hD.ne', abs_le, le_div_iff₀ hD, div_le_iff₀ hD]
    generalize ((10 : ℝ) ^ 20) ^ k = scale at *
    constructor <;> linarith
  have hsine := abs_le.1 (sin_turn_near k)
  have hk' : (k : ℝ) ≤ 256 := by exact_mod_cast hk
  rw [scaledSin, mul_div_assoc', abs_lt]
  rw [abs_le] at hrotation
  constructor <;> linarith

theorem qsin_near_scaledSin {i : Nat} (hi : i ≤ 1024) : |scaledSin (i / 1024) - qsin i| < 1 / 2 := by
  have firstHalf : ∀ i ≤ 512, |scaledSin ((i : Nat) / 1024) - qsin i| < 1 / 2 := by
    intro i hi
    obtain hq | hq := Nat.le_total i 256
    · obtain ⟨hquarter, -⟩ := qsin_quarters hq
      rw [hquarter]
      exact sineEntry_near_scaledSin hq
    · obtain ⟨r, rfl⟩ := Nat.exists_eq_add_of_le hq
      have hr : r ≤ 256 := by omega
      obtain ⟨-, hquarter, -⟩ := qsin_quarters hr
      rw [hquarter, ← scaledSin_half_sub]
      convert sineEntry_near_scaledSin (Nat.sub_le 256 r) using 4
      push_cast [hr]
      ring
  obtain h | h := Nat.le_total i 512
  · exact firstHalf i h
  · have hmirror := firstHalf (1024 - i) (by omega)
    rw [qsin_neg hi, Nat.cast_sub hi, Nat.cast_ofNat, sub_div, div_self (by norm_num), scaledSin_one_sub] at hmirror
    rw [← abs_neg]
    convert hmirror using 2
    push_cast
    ring

/-- R139: the chord of the true sine over one table interval misses it by at most `(2π/1024)^2 / 8`. -/
theorem scaledSin_chord_error (i t : ℝ) (t0 : 0 ≤ t) (t1 : t ≤ 1) :
    |scaledSin ((i + t) / 1024) - ((1 - t) * scaledSin (i / 1024) + t * scaledSin ((i + 1) / 1024))| ≤
      2 ^ 30 * ((2 * Real.pi / 1024) ^ 2 / 8) := by
  have h := sin_chord_error (2 * Real.pi * (i / 1024)) (2 * Real.pi / 1024) t t0 t1
  rw [show 2 * Real.pi * (i / 1024) + t * (2 * Real.pi / 1024) = 2 * Real.pi * ((i + t) / 1024) by ring,
    show 2 * Real.pi * (i / 1024) + 2 * Real.pi / 1024 = 2 * Real.pi * ((i + 1) / 1024) by ring] at h
  rw [abs_le] at *
  simp only [scaledSin]
  constructor <;> linarith

/-- The chord of the table misses the true sine by the chord error and the rounding of the table. -/
theorem sineChord_near_scaledSin (p : Word) :
    |scaledSin (p.toNat / 2 ^ 32) - sineChord p / 2 ^ 22| ≤ 2 ^ 30 * ((2 * Real.pi / 1024) ^ 2 / 8) + 1 / 2 := by
  have hi := sineInterval_lt p
  have hlow := qsin_near_scaledSin hi.le
  have hhigh := qsin_near_scaledSin (Nat.succ_le_of_lt hi)
  have hp : (p.toNat : ℝ) = sineInterval p * 2 ^ 22 + sinePosition p := mod_cast toNat_eq_interval_position p
  have hf : (sinePosition p : ℝ) ≤ 2 ^ 22 := mod_cast (sinePosition_lt p).le
  have hchord : (sineChord p : ℝ) = qsin (sineInterval p) * (2 ^ 22 - sinePosition p) +
      qsin (sineInterval p + 1) * sinePosition p := by
    norm_num [sineChord]
  obtain ⟨t, ht⟩ : ∃ t : ℝ, sinePosition p = t * 2 ^ 22 := ⟨sinePosition p / 2 ^ 22, by ring⟩
  have t0 : 0 ≤ t := by
    have := (sinePosition p).cast_nonneg (α := ℝ)
    linarith
  have t1 : t ≤ 1 := by linarith
  have herror := scaledSin_chord_error (sineInterval p) t t0 t1
  rw [Nat.cast_succ] at hhigh
  rw [hchord, hp, ht, show ((sineInterval p : ℝ) * 2 ^ 22 + t * 2 ^ 22) / 2 ^ 32 = (sineInterval p + t) / 1024 by ring]
  rw [abs_le] at *
  rw [abs_lt] at hlow hhigh
  constructor <;> nlinarith

/-- The interpolation is the floor of the exact rational number (R139). -/
theorem sin_eq_floor (p : Word) :
    sin p = qsin (sineInterval p) +
      ⌊((qsin (sineInterval p + 1) - qsin (sineInterval p) : Int) : ℚ) * sinePosition p / 2 ^ 22⌋ := by
  rw [sin, show (2 ^ 22 : ℤ) = (2 ^ 22 : ℕ) from rfl, ← Rat.floor_intCast_div_natCast]
  push_cast
  rfl

/-- The error of `SIN`: that of the chord, and one unit for the floor (R139). -/
theorem sin_near_scaledSin (p : Word) : |sin p - scaledSin (p.toNat / 2 ^ 32)| < 51 / 10 ^ 7 * 2 ^ 30 := by
  have hchord := abs_le.1 (sineChord_near_scaledSin p)
  have hfloor : sin p * 2 ^ 22 ≤ sineChord p ∧ sineChord p < sin p * 2 ^ 22 + 2 ^ 22 := by
    rw [sin_eq_sineChord_div]
    omega
  have hbelow : (sin p : ℝ) * 2 ^ 22 ≤ sineChord p := mod_cast hfloor.1
  have habove : (sineChord p : ℝ) < sin p * 2 ^ 22 + 2 ^ 22 := mod_cast hfloor.2
  have hpi : Real.pi ^ 2 < 9.87 := by nlinarith [Real.pi_gt_three, Real.pi_lt_d4]
  rw [abs_lt]
  constructor <;> nlinarith

/-- Settles O60: the table by `sineEntry_near_scaledSin`, the quarters by cases, the error by `sin_near_scaledSin`. -/
theorem sineInterpolatesRoundedSine : Obligations.SineInterpolatesRoundedSine := by
  refine ⟨⟨sineTable_length, sineTable_sum, by decide⟩, fun k hk => ?_, fun k hk => qsin_quarters hk, fun p => ?_⟩
  · obtain ⟨hlow, hhigh⟩ := abs_lt.1 (sineEntry_near_scaledSin hk)
    rw [scaledSin, mul_div_assoc'] at hlow hhigh
    exact (round_eq_iff.2 ⟨by linarith, by linarith⟩).symm
  · obtain ⟨hinterval, hposition⟩ := sine_fields p
    simp only [hinterval, hposition]
    refine ⟨sin_eq_floor p, sin_bounds p, ?_⟩
    rw [mul_div_assoc (2 * Real.pi)]
    exact sin_near_scaledSin p

end Sys2Proof.Machine

/-! PROOFS. 41_pwm_generator.md R130 to R137, R141 to R145: the comparator. One equation of `comparePhase` for each kind of
pulse mode, and the locked carrier as a product of words. -/
namespace Sys2Proof.Machine

theorem triangleCompare_eq_pos_iff (phi c volt : Word) : triangleCompare phi c volt = .pos ↔ modulating phi volt > tri c := by
  simp [triangleCompare]

theorem squareWave_eq_pos_iff (phi : Word) : squareWave phi = .pos ↔ phi.toNat < 2 ^ 31 := by
  simp [squareWave]

theorem comparePhase_of_async {pmode : Word} (h : decodePmode pmode = .async) (phi ct volt : Word) :
    comparePhase phi ct volt pmode = triangleCompare phi ct volt := by
  rw [comparePhase, h]

theorem comparePhase_of_square {pmode : Word} (h : decodePmode pmode = .sync 1) (phi ct volt : Word) :
    comparePhase phi ct volt pmode = squareWave phi := by
  rw [comparePhase, h]
  rfl

theorem comparePhase_of_sync {pmode : Word} {n : Nat} (h : decodePmode pmode = .sync n) (hn : n ≠ 1) (phi ct volt : Word) :
    comparePhase phi ct volt pmode = triangleCompare phi (lockedCarrier phi n) volt := by
  rw [comparePhase, h]
  exact if_neg hn

/-- No synchronous mode reads the free carrier (R136). -/
theorem comparePhase_ct_irrelevant {pmode : Word} (h : decodePmode pmode ≠ .async) (phi ct ct' volt : Word) :
    comparePhase phi ct volt pmode = comparePhase phi ct' volt pmode := by
  rw [comparePhase, comparePhase]
  cases hmode : decodePmode pmode with
  | async => contradiction
  | sync n => rfl

/-- `CHM` and the reserved tags are the square wave (R134). -/
theorem decodePmode_of_square {tag : Word} (h : tag.toNat = 1 ∨ 11 ≤ tag.toNat) : decodePmode tag = .sync 1 := by
  unfold decodePmode
  split <;> try omega
  all_goals rfl

/-- The locked carrier is a product of words (R136). -/
theorem lockedCarrier_eq_mul (phi : Word) (n : Nat) : lockedCarrier phi n = phi * BitVec.ofNat 32 n := by
  apply BitVec.eq_of_toNat_eq
  rw [lockedCarrier_toNat, BitVec.toNat_mul, BitVec.toNat_ofNat, Nat.mul_mod_mod]

/-- Settles O26: `GEN` writes no more than the response, and `SAMPLE` is `GEN` on the angles of the state. -/
theorem genRespondsComparatorOutput : Obligations.GenRespondsComparatorOutput := by
  refine ⟨fun w hop => Spells.decode_eq ⟨hop, rfl, rfl⟩ rfl, fun s => ⟨fun a b => ?_, rfl, fun hsync a b b' => ?_⟩⟩
  · simp only [← Leg.bit_eq]
    exact exec_eq (.gen a b) s
  · have hlegs : generate a b s.p.volt s.p.pmode = generate a b' s.p.volt s.p.pmode := by
      simp only [generate, comparePhase_ct_irrelevant hsync _ b b']
    rw [exec_eq, exec_eq, execNext, execNext, hlegs]

/-- Settles O27: the wrap of a difference or a sum of readings is the difference or the sum of the words. -/
theorem generateComparesThreeShiftedAngles : Obligations.GenerateComparesThreeShiftedAngles := by
  intro th ct volt pmode
  have hminus : u32 ((th.toNat : Int) - (Config.K120.toNat : Int)) = th - 0x55555555#32 := by
    rw [sub_eq_add_neg, u32_add, u32_natCast, show u32 (-(Config.K120.toNat : Int)) = -0x55555555#32 by decide,
      BitVec.sub_eq_add_neg]
  have hplus : u32 ((th.toNat : Int) + (Config.K120.toNat : Int)) = th + 0x55555555#32 := by
    rw [u32_add, u32_natCast, u32_natCast]
    rfl
  simp only [generate, hminus, hplus, and_self]

/-- Settles O28, by the comparison with the free carrier. -/
theorem asyncLegComparesWithFreeCarrier : Obligations.AsyncLegComparesWithFreeCarrier := by
  intro phi ct volt
  rw [comparePhase_of_async rfl]
  exact triangleCompare_eq_pos_iff phi ct volt

/-- Settles O29, by the comparison with the locked carrier: each row of R134 decodes to its `N`. -/
theorem syncLegComparesWithLockedCarrier : Obligations.SyncLegComparesWithLockedCarrier := by
  intro phi ct volt row hrow
  have hdecode : decodePmode row.1 = .sync row.2.toNat ∧ row.2.toNat ≠ 1 := by
    revert row
    simp only [List.forall_mem_cons]
    exact ⟨by decide, by decide, by decide, by decide, by decide, by decide, by decide, by decide, by decide, by simp⟩
  rw [comparePhase_of_sync hdecode.1 hdecode.2, triangleCompare_eq_pos_iff, lockedCarrier_eq_mul, BitVec.ofNat_toNat,
    BitVec.setWidth_eq]
  rfl

/-- Settles O30, by the square wave; bit 31 is the half of the turn. -/
theorem squareWaveLegIsTopBit : Obligations.SquareWaveLegIsTopBit := by
  intro phi ct volt pmode htag
  have hhalf : phi.toNat < 2 ^ 31 ↔ phi.getLsbD 31 = false := by
    have hmsb : phi.getLsbD 31 = phi.msb := (BitVec.msb_eq_getLsbD_last phi).symm
    rw [hmsb, BitVec.msb_eq_decide, decide_eq_false_iff_not, Nat.not_le]
  rw [comparePhase_of_square (decodePmode_of_square htag), squareWave_eq_pos_iff]
  exact ⟨Iff.rfl, hhalf⟩

/-- Settles O31: as words, three times `K120` is `-1`. -/
theorem lockedCarriersDifferByThirdOfN : Obligations.LockedCarriersDifferByThirdOfN := by
  intro th k
  have hthird : Config.K120 * BitVec.ofNat 32 (3 * k) = -BitVec.ofNat 32 k := by
    rw [BitVec.ofNat_mul, ← mul_assoc, show Config.K120 * BitVec.ofNat 32 3 = -1 by decide, neg_one_mul]
  simp only [lockedCarrier_eq_mul, sub_mul, add_mul, hthird]
  constructor <;> ring

/-- Settles O32, half turn by half turn. -/
theorem triangleIsIdealScaled : Obligations.TriangleIsIdealScaled := by
  refine ⟨fun c => ?_, by decide⟩
  have hhalf : turns c < 1 / 2 ↔ c.toNat < 2 ^ 31 := by
    rw [turns, div_lt_iff₀ (by norm_num), ← Nat.cast_lt (α := ℚ)]
    norm_num
  rw [tri, idealTriangle]
  by_cases h : c.toNat < 2 ^ 31
  · rw [if_pos h, if_pos (hhalf.2 h), turns]
    push_cast
    ring
  · rw [if_neg h, if_neg (mt hhalf.1 h), turns]
    push_cast
    ring

/-- At voltage 0 the leg is the sign of the triangle (R141). -/
theorem comparePhase_async_zero_eq_pos_iff (phi ct : Word) :
    comparePhase phi ct 0 0 = .pos ↔ ct.toNat < 2 ^ 30 ∨ 3 * 2 ^ 30 < ct.toNat := by
  rw [comparePhase_of_async rfl, triangleCompare_eq_pos_iff, modulating, tri]
  split <;> simp <;> omega

/-- Two leg values are equal exactly when both are `+1` or neither is. -/
theorem Leg.eq_iff_pos (l l' : Leg) : l = l' ↔ (l = .pos ↔ l' = .pos) := by
  cases l <;> cases l' <;> decide

/-- Settles O35: the two sets of carriers, one unit apart, differ in their ends. -/
theorem asyncZeroVoltageIsHalfDuty : Obligations.AsyncZeroVoltageIsHalfDuty := by
  intro phi ct
  refine ⟨comparePhase_async_zero_eq_pos_iff phi ct, ?_⟩
  rw [ne_eq, Leg.eq_iff_pos, comparePhase_async_zero_eq_pos_iff, comparePhase_async_zero_eq_pos_iff, ← BitVec.toNat_inj,
    ← BitVec.toNat_inj, BitVec.toNat_sub]
  have := ct.isLt
  have h1 : (0x40000000 : Word).toNat = 0x40000000 := rfl
  have h2 : (0xC0000001 : Word).toNat = 0xC0000001 := rfl
  have h3 : (1 : Word).toNat = 1 := rfl
  omega

end Sys2Proof.Machine

/-! PROOFS. 41_pwm_generator.md R144(d): the changes of a synchronous leg. In each half of the locked carrier a leg can only
settle to one value, so a change belongs to a half into which it settles, and no half has two. -/
namespace Sys2Proof.Machine

/-- One unit of the angle moves the locked carrier by `N` units (R136). -/
theorem lockedCarrier_succ_toNat (phi : Word) (n : Nat) :
    (lockedCarrier (phi + 1) n).toNat = ((lockedCarrier phi n).toNat + n) % 2 ^ 32 := by
  rw [lockedCarrier_eq_mul, lockedCarrier_eq_mul, add_mul, one_mul, BitVec.toNat_add, BitVec.toNat_ofNat, Nat.add_mod_mod]

/-- One unit of the angle moves the modulating value by at most twice the voltage. -/
theorem modulating_succ_bounds (phi volt : Word) :
    modulating phi volt - 2 * volt.toNat ≤ modulating (phi + 1) volt ∧
    modulating (phi + 1) volt ≤ modulating phi volt + 2 * volt.toNat := by
  obtain ⟨hlow, hhigh⟩ := sineMovesAtMostTwoPerUnit phi
  rw [modulating, modulating]
  constructor <;> nlinarith

theorem Leg.eq_neg_iff (l : Leg) : l = .neg ↔ l ≠ .pos := by cases l <;> decide

/-- Settles O36: in each half the triangle moves by `N * 2^16`, which is more than the modulating value can move. -/
theorem syncLegChangesOneWayPerHalf : Obligations.SyncLegChangesOneWayPerHalf := by
  intro phi ct volt pmode n hmode hn hvolt
  obtain ⟨hlow, hhigh⟩ := modulating_succ_bounds phi volt
  have hcarrier := lockedCarrier_succ_toNat phi n
  simp only [comparePhase_of_sync hmode (show n ≠ 1 by omega), Leg.eq_neg_iff, ne_eq, triangleCompare_eq_pos_iff]
  refine ⟨fun hhalf hleg => ?_, fun hhalf hend hleg => ?_⟩
  · have htri : tri (lockedCarrier (phi + 1) n) = tri (lockedCarrier phi n) + n * 2 ^ 16 := by
      rw [tri, tri, if_pos (by omega), if_pos (by omega)]
      omega
    omega
  · have htri : tri (lockedCarrier (phi + 1) n) = tri (lockedCarrier phi n) - n * 2 ^ 16 := by
      rw [tri, tri, if_neg (by omega), if_neg (by omega)]
      omega
    omega

/-- The half of the locked carrier that the angle `t` is in, counted from angle 0: even halves rise, odd halves fall. -/
def carrierHalf (n t : Nat) : Nat := t * n / 2 ^ 31

/-- The one value to which a leg can settle in a half: `-1` while the carrier rises, `+1` while it falls. -/
def settled (k : Nat) : Leg := if k % 2 = 0 then .neg else .pos

/-- Leg U at the angle `t`, counted without wrap, in a mode that does not read the free carrier. -/
def legAt (volt pmode : Word) (t : Nat) : Leg := comparePhase (BitVec.ofNat 32 t) 0 volt pmode

/-- The half to which a change between `t` and `t + 1` belongs: of the half of `t` and the next one, the one in which the new
value is the settled one. -/
def changeHalf (volt pmode : Word) (n t : Nat) : Nat :=
  if legAt volt pmode (t + 1) = settled (carrierHalf n t) then carrierHalf n t else carrierHalf n t + 1

theorem carrierHalf_mono (n : Nat) {t t' : Nat} (h : t ≤ t') : carrierHalf n t ≤ carrierHalf n t' :=
  Nat.div_le_div_right (Nat.mul_le_mul_right n h)

theorem settled_succ (k : Nat) : settled (k + 1) ≠ settled k := by
  obtain h | h := Nat.mod_two_eq_zero_or_one k
  · simp [settled, h, Nat.succ_mod_two_eq_one_iff.2 h]
  · simp [settled, h, Nat.succ_mod_two_eq_zero_iff.2 h]

/-- Of three leg values, two are equal. -/
theorem Leg.eq_of_ne_of_ne {a b c : Leg} (hab : a ≠ b) (hcb : c ≠ b) : a = c := by
  cases b with
  | pos => rw [a.eq_neg_iff.2 hab, c.eq_neg_iff.2 hcb]
  | neg => rw [not_not.1 (mt a.eq_neg_iff.2 hab), not_not.1 (mt c.eq_neg_iff.2 hcb)]

/-- At angle 0 the sine is zero and the locked carrier at its trough: every leg is `+1`. -/
theorem legAt_zero {volt pmode : Word} {n : Nat} (hmode : decodePmode pmode = .sync n) (hn : 3 ≤ n) :
    legAt volt pmode 0 = .pos := by
  have hsin : sin 0 = 0 := by decide +kernel
  have htri : tri 0 = -2 ^ 46 := by decide
  have hcarrier : lockedCarrier 0 n = 0 := by rw [lockedCarrier_eq_mul, zero_mul]
  rw [legAt, comparePhase_of_sync hmode (by omega), triangleCompare_eq_pos_iff]
  change modulating 0 volt > tri (lockedCarrier 0 n)
  rw [modulating, hsin, hcarrier, htri]
  omega

section
variable {volt pmode : Word} {n : Nat} (hmode : decodePmode pmode = .sync n) (hn : 3 ≤ n) (hvolt : volt.toNat < n * 2 ^ 15)
include hmode hn hvolt

/-- A leg that has settled stays settled to the end of the half (R144(d)). -/
theorem legAt_succ_of_settled {t : Nat} (hhalf : carrierHalf n (t + 1) = carrierHalf n t)
    (hleg : legAt volt pmode t = settled (carrierHalf n t)) : legAt volt pmode (t + 1) = settled (carrierHalf n t) := by
  obtain ⟨hrise, hfall⟩ := syncLegChangesOneWayPerHalf (BitVec.ofNat 32 t) 0 volt pmode n hmode hn hvolt
  have hcarrier : (lockedCarrier (BitVec.ofNat 32 t) n).toNat = t * n % 2 ^ 32 := by
    rw [lockedCarrier_toNat, BitVec.toNat_ofNat, Nat.mod_mul_mod]
  rw [hcarrier] at hrise hfall
  simp only [carrierHalf, Nat.succ_mul] at hhalf hleg ⊢
  rw [legAt, BitVec.ofNat_add]
  obtain heven | hodd := Nat.mod_two_eq_zero_or_one (t * n / 2 ^ 31)
  · rw [settled, if_pos heven] at hleg ⊢
    exact hrise (by omega) hleg
  · rw [settled, if_neg (by omega)] at hleg ⊢
    exact hfall (by omega) (by omega) hleg

/-- The same over several units inside one half. -/
theorem legAt_of_settled {t t' k : Nat} (h : t ≤ t') (ht : carrierHalf n t = k) (ht' : carrierHalf n t' = k)
    (hleg : legAt volt pmode t = settled k) : legAt volt pmode t' = settled k := by
  induction t', h using Nat.le_induction with
  | base => exact hleg
  | succ t' h ih =>
    have hlow := carrierHalf_mono n h
    have hhigh := carrierHalf_mono n (Nat.le_add_right t' 1)
    obtain rfl : carrierHalf n t' = k := by omega
    exact legAt_succ_of_settled hmode hn hvolt ht' (ih rfl)

/-- A change settles the leg in its half, and the change is at that half or at its beginning. -/
theorem changeHalf_spec {t : Nat} (hchange : legAt volt pmode (t + 1) ≠ legAt volt pmode t) :
    legAt volt pmode (t + 1) = settled (changeHalf volt pmode n t) ∧ carrierHalf n t ≤ changeHalf volt pmode n t ∧
    changeHalf volt pmode n t ≤ carrierHalf n (t + 1) := by
  have hmono := carrierHalf_mono n (Nat.le_add_right t 1)
  rw [changeHalf]
  split
  case isTrue hsettled => exact ⟨hsettled, le_rfl, hmono⟩
  case isFalse hunsettled =>
    have hbefore : legAt volt pmode t = settled (carrierHalf n t) := Leg.eq_of_ne_of_ne hchange.symm (Ne.symm hunsettled)
    refine ⟨Leg.eq_of_ne_of_ne hunsettled (settled_succ _), Nat.le_succ _, Nat.succ_le_of_lt (hmono.lt_of_ne fun hsame => ?_)⟩
    exact hunsettled (legAt_succ_of_settled hmode hn hvolt hsame.symm hbefore)

/-- No half has two changes: after the first the leg is settled, and it stays so up to the second. -/
theorem changeHalf_ne_of_lt {t t' : Nat} (hlt : t < t') (hchange : legAt volt pmode (t + 1) ≠ legAt volt pmode t)
    (hchange' : legAt volt pmode (t' + 1) ≠ legAt volt pmode t') : changeHalf volt pmode n t ≠ changeHalf volt pmode n t' := by
  intro hsame
  obtain ⟨hleg, -, hfrom⟩ := changeHalf_spec hmode hn hvolt hchange
  obtain ⟨hleg', hto, -⟩ := changeHalf_spec hmode hn hvolt hchange'
  have hnext : t + 1 ≤ t' := hlt
  have hmono := carrierHalf_mono n hnext
  have hstay := legAt_of_settled hmode hn hvolt hnext (by omega) (by omega) hleg
  exact hchange' (by rw [hleg', ← hsame, hstay])

/-- The changes of one turn belong to its `2 * N` halves: the leg is `+1` at angle 0, so the turn does not end on a change to
the settled value of the half after it. -/
theorem changeHalf_lt {t : Nat} (ht : t < 2 ^ 32) (hchange : legAt volt pmode (t + 1) ≠ legAt volt pmode t) :
    changeHalf volt pmode n t < 2 * n := by
  obtain ⟨hleg, -, hto⟩ := changeHalf_spec hmode hn hvolt hchange
  have hend : carrierHalf n (2 ^ 32) = 2 * n := by rw [carrierHalf]; omega
  have hnext : t + 1 ≤ 2 ^ 32 := ht
  have hmono := carrierHalf_mono n hnext
  refine Nat.lt_of_le_of_ne (by omega) fun hlast => ?_
  have hturn : t + 1 = 2 ^ 32 := by
    by_contra hinside
    have : (t + 1) * n < 2 ^ 32 * n := Nat.mul_lt_mul_of_pos_right (by omega) (by omega)
    rw [hlast, carrierHalf] at hto
    omega
  have hzero : legAt volt pmode (t + 1) = .pos := by
    rw [hturn]
    exact legAt_zero hmode hn
  rw [hzero, hlast, settled, if_pos (by omega)] at hleg
  contradiction

end

/-- A phase word at which leg U changes, as a change from the unit before to the next. -/
theorem changesAt_iff (pmode volt th : Word) :
    ChangesAt pmode volt th ↔ legAt volt pmode ((th - 1).toNat + 1) ≠ legAt volt pmode (th - 1).toNat := by
  rw [ChangesAt, generate_u, generate_u, legAt, legAt, BitVec.ofNat_add, BitVec.ofNat_toNat, BitVec.setWidth_eq]
  simp

/-- Settles O37: the changes have different halves, and a turn has `2 * N` halves. -/
theorem syncLegChangesAtMostTwiceN : Obligations.SyncLegChangesAtMostTwiceN := by
  intro volt pmode n hmode hn hvolt l hnodup hchanges
  simp only [changesAt_iff] at hchanges
  have hinj : ∀ th ∈ l, ∀ th' ∈ l,
      changeHalf volt pmode n (th - 1).toNat = changeHalf volt pmode n (th' - 1).toNat → th = th' := by
    intro th hth th' hth' hsame
    obtain hlt | heq | hgt := Nat.lt_trichotomy (th - 1).toNat (th' - 1).toNat
    · exact (changeHalf_ne_of_lt hmode hn hvolt hlt (hchanges th hth) (hchanges th' hth') hsame).elim
    · exact sub_left_injective (BitVec.eq_of_toNat_eq heq)
    · exact (changeHalf_ne_of_lt hmode hn hvolt hgt (hchanges th' hth') (hchanges th hth) hsame.symm).elim
  have hhalves : l.toFinset.card ≤ (Finset.range (2 * n)).card := by
    refine Finset.card_le_card_of_injOn (fun th => changeHalf volt pmode n (th - 1).toNat) (fun th hth => ?_) ?_
    · rw [Finset.mem_coe, List.mem_toFinset] at hth
      exact Finset.mem_coe.2 (Finset.mem_range.2 (changeHalf_lt hmode hn hvolt (th - 1).isLt (hchanges th hth)))
    · intro th hth th' hth'
      exact hinj th (by simpa using hth) th' (by simpa using hth')
  rwa [List.toFinset_card_of_nodup hnodup, Finset.card_range] at hhalves

end Sys2Proof.Machine

/-! PROOFS. 42_biquad_filter.md R160, R166, R167: one pass of a filter: its sum, its rounding, its clamp. -/
namespace Sys2Proof.Machine

/-- A product of two numbers of 32 bits is at most `2 ^ 62` in magnitude. Only the upper bound is met, by the product of the
two most negative numbers. -/
theorem mul_bounds_of_signed32 {a b : Int} (ha : -2 ^ 31 ≤ a ∧ a < 2 ^ 31) (hb : -2 ^ 31 ≤ b ∧ b < 2 ^ 31) :
    -2 ^ 62 < a * b ∧ a * b ≤ 2 ^ 62 := by
  have ha0 : 0 ≤ a + 2 ^ 31 := by omega
  have ha1 : 0 < 2 ^ 31 - a := by omega
  have hb0 : 0 ≤ b + 2 ^ 31 := by omega
  have hb1 : 0 < 2 ^ 31 - b := by omega
  have hsame := mul_nonneg ha0 hb0
  have hsame' := mul_pos ha1 hb1
  have hmixed := mul_nonneg ha0 hb1.le
  have hmixed' := mul_nonneg ha1.le hb0
  constructor
  · linarith
  · linarith

/-- The sum misses the bound because no product attains both `2 ^ 62` and `-2 ^ 62`, and the signs are mixed (R167). -/
theorem filterSum_bounds (c : Coefs) (h : Hist) {x : Int} (hx : -2 ^ 31 ≤ x ∧ x < 2 ^ 31) :
    |filterSum c h x| < 5 * 2 ^ 62 := by
  have hb0 := mul_bounds_of_signed32 (s32_bounds c.b0) hx
  have hb1 := mul_bounds_of_signed32 (s32_bounds c.b1) (s32_bounds h.x1)
  have hb2 := mul_bounds_of_signed32 (s32_bounds c.b2) (s32_bounds h.x2)
  have ha1 := mul_bounds_of_signed32 (s32_bounds c.a1) (s32_bounds h.y1)
  have ha2 := mul_bounds_of_signed32 (s32_bounds c.a2) (s32_bounds h.y2)
  rw [filterSum, abs_lt]
  omega

theorem filterRound_bounds {acc : Int} (h : |acc| < 5 * 2 ^ 62) : |filterRound acc| ≤ 5 * 2 ^ 32 := by
  have herror := filterRound_error acc
  rw [abs_lt] at h
  rw [abs_le]
  omega

/-- Settles O43: five products of 32-bit numbers, then the rounding. -/
theorem filterSumFitsAccumulator : Obligations.FilterSumFitsAccumulator := by
  intro c h x hlow hhigh
  have hsum := filterSum_bounds c h ⟨hlow, hhigh⟩
  exact ⟨hsum, hsum.trans (by norm_num), filterRound_bounds hsum⟩

/-- The sum of the exact products, with its 58 fraction bits, is the recurrence on the numbers the words stand for (R160,
R166). -/
theorem recurrence_eq_filterSum (c : Coefs) (h : Hist) (x : Word) :
    coefValue c.b0 * sampleValue x + coefValue c.b1 * sampleValue h.x1 + coefValue c.b2 * sampleValue h.x2
      - coefValue c.a1 * sampleValue h.y1 - coefValue c.a2 * sampleValue h.y2 = (filterSum c h (s32 x) : ℚ) / 2 ^ 58 := by
  simp only [coefValue, sampleValue, filterSum]
  push_cast
  ring

/-- Rounding to 28 fraction bits moves a sum by at most half a unit of the sample format (R167). -/
theorem filterRound_near (acc : Int) : |(filterRound acc : ℚ) / 2 ^ 28 - acc / 2 ^ 58| ≤ 1 / 2 ^ 29 := by
  obtain ⟨hlow, hhigh⟩ := filterRound_error acc
  have hlow : (-2 ^ 29 : ℚ) ≤ acc - filterRound acc * 2 ^ 30 := by exact_mod_cast hlow
  have hhigh : (acc - filterRound acc * 2 ^ 30 : ℚ) < 2 ^ 29 := by exact_mod_cast hhigh
  rw [abs_le]
  constructor <;> linarith

/-- An output that is not clamped is the rounded sum. -/
theorem process_y_of_unclamped {c : Coefs} {h : Hist} {x : Int} (hc : (process c h x).clamped = false) :
    (process c h x).y = filterRound (filterSum c h x) := by
  have hrange := (process_clamped_iff c h x).not.1 (Bool.not_eq_true _ ▸ hc)
  exact sat32_of_range _ (by omega) (by omega)

/-- A word in the history stands for the output it was written from: the output is in the sample format. -/
theorem s32_process_y (c : Coefs) (h : Hist) (x : Int) : s32 (u32 (process c h x).y) = (process c h x).y :=
  s32_u32 _ (process_y_range c h x).1 (process_y_range c h x).2

/-- Settles O44: unless the clamp acts, the rounding is all that separates the output from the recurrence. -/
theorem unclampedOutputWithinHalfUnit : Obligations.UnclampedOutputWithinHalfUnit := by
  intro c h x hc
  have hy : s32 (BitVec.ofInt 32 (process c h (s32 x)).y) = filterRound (filterSum c h (s32 x)) :=
    (s32_process_y c h (s32 x)).trans (process_y_of_unclamped hc)
  rw [recurrence_eq_filterSum, sampleValue, hy]
  exact filterRound_near _

theorem filterRound_eq_floor (acc : Int) : filterRound acc = ⌊((acc : ℚ) + 2 ^ 29) / 2 ^ 30⌋ := by
  have h := Rat.floor_intCast_div_natCast (acc + 2 ^ 29) (2 ^ 30)
  push_cast at h
  exact h.symm

theorem sat32_eq (v : Int) : sat32 v = if v < -2 ^ 31 then -2 ^ 31 else if 2 ^ 31 - 1 < v then 2 ^ 31 - 1 else v := by
  rw [sat32]
  split_ifs <;> omega

/-- Settles O42: the sum is written out in the statement, the rounding is the rational floor, the clamp is by cases. -/
theorem processIsDirectFormOne : Obligations.ProcessIsDirectFormOne := by
  intro c h x acc yr o
  have hyr : yr = filterRound (filterSum c h x) := (filterRound_eq_floor acc).symm
  rw [hyr]
  exact ⟨sat32_eq _, bne_iff_ne, rfl⟩

end Sys2Proof.Machine

/-! PROOFS. 42_biquad_filter.md R161, R162, R164: the commands that load and commit coefficients and enable the filters. -/
namespace Sys2Proof.Machine

/-- `LDC` of a selector that names a register (R161). -/
theorem exec_ldc_of_coefSel {sel : BitVec 4} {f : CoefSel} (h : coefSel sel = some f) (a : Word) (s : State) :
    exec (.ldc sel a) s = .next ((s.loadCoef f a).respond .none) := by
  rw [exec_eq, execNext, h]

/-- `LDC` of a reserved selector (R161). -/
theorem exec_ldc_of_reserved {sel : BitVec 4} (h : 5 ≤ sel.toNat) (a : Word) (s : State) :
    exec (.ldc sel a) s = .next s.rejectWord := by
  rw [exec_eq, execNext, (coefSel_none_iff sel).2 h]

/-- Settles O39, selector by selector. -/
theorem ldcLoadsOneCoefficientOrFlagsIll : Obligations.LdcLoadsOneCoefficientOrFlagsIll := by
  refine ⟨fun w hop => ⟨fun hsel => ?_, fun hsel => ?_⟩, fun s a => ⟨?_, ?_, ?_, ?_, ?_, fun sel hsel => ?_⟩⟩
  · exact Spells.decode_eq ⟨hop, rfl, rfl⟩ ((legalSel_iff _).2 hsel)
  · exact .inr ⟨.inr (congrArg BitVec.toNat hop), hsel⟩
  · exact exec_ldc_of_coefSel (f := .b0) rfl a s
  · exact exec_ldc_of_coefSel (f := .b1) rfl a s
  · exact exec_ldc_of_coefSel (f := .b2) rfl a s
  · exact exec_ldc_of_coefSel (f := .a1) rfl a s
  · exact exec_ldc_of_coefSel (f := .a2) rfl a s
  · exact exec_ldc_of_reserved hsel a s

/-- Settles O40: the five staged registers are the whole staging file. -/
theorem setcoefCopiesAllFive : Obligations.SetcoefCopiesAllFive :=
  ⟨fun _ hop => Spells.decode_eq ⟨hop, trivial⟩ rfl, exec_eq .setcoef⟩

theorem truth_of_ne_zero {a : Word} (h : a ≠ 0) : truth a = true := bne_iff_ne.2 h

/-- Settles O41, by the truth value of the operand. -/
theorem fctlEnablesOnNonzero : Obligations.FctlEnablesOnNonzero := by
  refine ⟨fun w hop => Spells.decode_eq ⟨hop, rfl⟩ rfl, fun s => ⟨exec_eq (.fctl 0) s, fun a ha => ?_⟩⟩
  rw [exec_eq, execNext, truth_of_ne_zero ha]
  rfl

end Sys2Proof.Machine

/-! PROOFS. 42_biquad_filter.md R169, R170, R172: the commands that run the comparator and the filters. -/
namespace Sys2Proof.Machine

/-- The filters enabled (R169). -/
theorem State.processLegs_of_enabled {s : State} (h : s.fen = true) : s.processLegs = s.filterLegs s.sampleLegs := by
  rw [State.processLegs_eq, if_pos h]

/-- The filters disabled (R170). -/
theorem State.processLegs_of_disabled {s : State} (h : s.fen = false) : s.processLegs = s.bypassLegs s.sampleLegs := by
  rw [State.processLegs_eq, if_neg (Bool.eq_false_iff.1 h)]

/-- The state after a filter pass, with the clamps of the three legs gathered in `SAT` (R167, R169). -/
theorem State.filterLegs_eq (s : State) (o : PwmOut) :
    s.filterLegs o =
      let fu := process s.c s.h.u o.u.sample
      let fv := process s.c s.h.v o.v.sample
      let fw := process s.c s.h.w o.w.sample
      { s with
        h := ⟨fu.hist, fv.hist, fw.hist⟩
        sat := s.sat || fu.clamped || fv.clamped || fw.clamped
        rsp := o.filtResponse fu.y fv.y fw.y } := by
  simp only [State.filterLegs, State.flagSat, State.respond, Bool.or_assoc]

/-- Settles O45: enabled or bypassed, `PROC` is the operation written out. -/
theorem procFiltersOrBypassesLegs : Obligations.ProcFiltersOrBypassesLegs := by
  refine ⟨fun w hop => Spells.decode_eq ⟨hop, trivial⟩ rfl, fun s => ?_⟩
  simp only [← Leg.bit_eq, ← Leg.sample_eq, ← u32_leg_sample]
  refine ⟨fun hfen => ?_, fun hfen => ?_⟩
  · rw [exec_eq, execNext, State.processLegs_of_enabled hfen, State.filterLegs_eq]
    rfl
  · rw [exec_eq, execNext, State.processLegs_of_disabled hfen]
    rfl

/-- The response of `PROC` is a `FILT` that shows the fundamental angle (R169). -/
theorem State.processLegs_rsp (s : State) : ∃ yu yv yw, s.processLegs.rsp = s.sampleLegs.filtResponse yu yv yw := by
  cases hfen : s.fen with
  | true => exact ⟨_, _, _, congrArg State.rsp (State.processLegs_of_enabled hfen)⟩
  | false => exact ⟨_, _, _, congrArg State.rsp (State.processLegs_of_disabled hfen)⟩

/-- A time step of zero moves no phase (40_phase_accumulator.md R105). -/
theorem phaseStep_zero (phase f : Word) : phaseStep phase f 0 = phase := by
  have hinc : phaseInc f 0 = 0 := by simp [phaseInc, s32]
  rw [phaseStep, hinc, add_zero, u32_natCast]

theorem State.advancePhases_zero (s : State) : s.advancePhases 0 = s := by
  rw [State.advancePhases, phaseStep_zero, phaseStep_zero]

/-- Settles O46: `ADVANCE` after `PROC` changes the phases that `TICK` changes, and loses only the response. -/
theorem tickIsProcThenAdvance : Obligations.TickIsProcThenAdvance := by
  refine ⟨fun w hop => Spells.decode_eq ⟨hop, rfl⟩ rfl, fun s => ⟨fun a => ?_, ?_⟩⟩
  · obtain ⟨yu, yv, yw, hrsp⟩ := s.processLegs_rsp
    exact ⟨_, _, exec_eq .proc s, exec_eq (.advance a) _, exec_eq (.tick a) s, _, _, _, _, _, _, hrsp⟩
  · rw [exec_eq, exec_eq, execNext, execNext, State.advancePhases_zero]

/-- The history of a leg after `PROC`, from that leg's history alone (R166, R170). -/
theorem State.processLegs_h_get (s : State) (k : LegName) :
    s.processLegs.h.get k =
      if s.fen then (process s.c (s.h.get k) (s.sampleLegs.leg k).sample).hist else s.h.get k := by
  cases hfen : s.fen with
  | true => rw [State.processLegs_of_enabled hfen, State.filterLegs_h_get, if_pos rfl]
  | false => rw [State.processLegs_of_disabled hfen, State.bypassLegs_h, if_neg Bool.false_ne_true]

/-- The output of a leg in the response of `PROC`, from that leg's history alone (R169, R170). -/
theorem State.processLegs_legOutput (s : State) (k : LegName) :
    s.processLegs.rsp.legOutput k =
      some (u32 (if s.fen then (process s.c (s.h.get k) (s.sampleLegs.leg k).sample).y
        else (s.sampleLegs.leg k).sample)) := by
  cases hfen : s.fen with
  | true =>
    rw [State.processLegs_of_enabled hfen]
    cases k <;> rfl
  | false =>
    rw [State.processLegs_of_disabled hfen]
    cases k <;> rfl

/-- Settles O47: the comparator reads no history, and the rest of a leg's work is on its own. -/
theorem legsDoNotReadEachOthersHistory : Obligations.LegsDoNotReadEachOthersHistory := by
  intro s t t' b k hk ht ht'
  obtain rfl := (exec_next_iff _ _ _).1 ht
  obtain rfl := (exec_next_iff _ _ _).1 ht'
  have hlegs : ({ s with h := b } : State).sampleLegs = s.sampleLegs := rfl
  simp only [execNext, State.processLegs_h_get, State.processLegs_legOutput, hlegs, hk, and_self]

end Sys2Proof.Machine

/-! PROOFS. 42_biquad_filter.md R173: the step response of the example low-pass. A filter whose history one more sample of a
constant input leaves as it is has settled, so a property of every sample is one of the samples up to there. -/
namespace Sys2Proof.Machine

section
variable {c : Coefs} {x : Int} {m : Nat}

theorem constantInput_of_settled (h : constantInput c x (m + 1) = constantInput c x m) {n : Nat} (hn : m ≤ n) :
    constantInput c x n = constantInput c x m := by
  induction n, hn using Nat.le_induction with
  | base => rfl
  | succ n _ ih =>
    rw [constantInput, ih]
    exact h

theorem stepOutput_of_settled (h : constantInput c x (m + 1) = constantInput c x m) (n : Nat) :
    stepOutput c x n = stepOutput c x (min n m) := by
  obtain hn | hn := le_total n m
  · rw [min_eq_left hn]
  · rw [min_eq_right hn, stepOutput, stepOutput, constantInput_of_settled h hn]

end

/-- From sample 102 on the history holds the constant output twice (R173). -/
theorem exampleLowPass_settled :
    constantInput exampleLowPass (2 ^ 28) 103 = constantInput exampleLowPass (2 ^ 28) 102 := by
  decide +kernel

/-- The samples until the example filter has settled, evaluated. -/
theorem exampleLowPass_transient : ∀ n < 103,
    ((stepOutput exampleLowPass (2 ^ 28) n).clamped = false ∧ (stepOutput exampleLowPass (2 ^ 28) n).y ≤ 280292594) ∧
    (100 ≤ n → (stepOutput exampleLowPass (2 ^ 28) n).y = 268435457) := by
  decide +kernel

/-- Settles O48: the single samples are evaluated, and the clauses about every sample are about those up to 102. -/
theorem exampleStepResponseSettles : Obligations.ExampleStepResponseSettles := by
  refine ⟨by decide +kernel, by decide +kernel, by decide +kernel, by decide +kernel, by decide +kernel,
    fun n => ?_, fun n hn => ?_⟩
  · rw [stepOutput_of_settled exampleLowPass_settled n]
    exact (exampleLowPass_transient (min n 102) (by omega)).1
  · rw [stepOutput_of_settled exampleLowPass_settled n]
    exact (exampleLowPass_transient (min n 102) (by omega)).2 (by omega)

end Sys2Proof.Machine

/-! PROOFS. 43_arithmetic_and_absent_classes.md R180: the widths of the phase and comparator arithmetic. Each exact product has
one unsigned factor, below a power of two, and one signed factor of bounded magnitude. -/
namespace Sys2Proof.Machine

/-- The width of an exact product of an unsigned and a signed factor is the sum of their widths (R180). -/
theorem abs_natCast_mul_lt {a m : Nat} {b B : Int} (ha : a < m) (hb : |b| ≤ B) (hB : 0 < B) : |(a : Int) * b| < m * B := by
  rw [abs_mul, Nat.abs_cast]
  exact mul_lt_mul_of_lt_of_le_of_nonneg_of_pos (Nat.cast_lt.2 ha) hb (Int.natCast_nonneg a) hB

theorem abs_s32_le (w : Word) : |s32 w| ≤ 2 ^ 31 := by
  obtain ⟨hlow, hhigh⟩ := s32_bounds w
  exact abs_le.2 ⟨hlow, hhigh.le⟩

theorem abs_qsin_step_le {k : Nat} (hk : k < 1024) : |qsin (k + 1) - qsin k| ≤ 6588356 :=
  abs_le.2 (qsin_step k hk)

/-- The product that the interpolation of `SIN` rounds: a position of 22 bits times a table difference (R139, R180). -/
theorem abs_qsin_step_mul_position_lt (p : Word) :
    |(qsin (sineInterval p + 1) - qsin (sineInterval p)) * (sinePosition p : Int)| < 2 ^ 45 := by
  rw [mul_comm]
  calc |(sinePosition p : Int) * (qsin (sineInterval p + 1) - qsin (sineInterval p))|
      < (2 ^ 22 : Nat) * 6588356 :=
        abs_natCast_mul_lt (sinePosition_lt p) (abs_qsin_step_le (sineInterval_lt p)) (by decide)
    _ ≤ 2 ^ 45 := by decide

/-- Settles O38: a width for each factor, and the sum of the two for the product. -/
theorem exactResultsFitStatedWidths : Obligations.ExactResultsFitStatedWidths := by
  refine ⟨fun f a => ?_, fun phi => ?_, fun k hk => abs_qsin_step_le hk, abs_qsin_step_mul_position_lt,
    fun volt phi => ?_, fun c => abs_le.2 (tri_bounds c)⟩
  · exact abs_natCast_mul_lt f.isLt (abs_s32_le a) (by decide)
  · have := phi.isLt
    omega
  · exact abs_natCast_mul_lt volt.isLt (abs_le.2 (sin_bounds phi)) (by decide)

end Sys2Proof.Machine

/-! PROOFS. 60_exceptions.md R190, R202: the block takes every edge, and an edge with nothing presented leaves it as it was. -/
namespace Sys2Proof.Machine

/-- Settles O4: with no input left, or nothing presented at the edge, the step is an idle edge, which only clears the
response. -/
theorem idleEdgeHoldsState : Obligations.IdleEdgeHoldsState := fun _ =>
  ⟨step_nothing, fun _ _ => step_idle⟩

/-- An edge either executes a command, which always completes, or has settled the state already (R190). -/
theorem safeStep (s : State) : SafeStep s := by
  rw [SafeStep, step]
  cases nextEdge s with
  | command i t => exact ⟨execNext i t, exec_eq i t⟩
  | settled t => exact ⟨t, rfl⟩

/-- Settles O7: a step completes as its edge does, and a command with the next state that `execNext` gives it. -/
theorem everyStepCompletes : Obligations.EveryStepCompletes := fun s =>
  ⟨safeStep s, fun i => ⟨execNext i s, exec_eq i s⟩⟩

end Sys2Proof.Machine

/-! PROOFS. 70_reset_and_hazards.md R210 to R212: the reset edge, what the commands do straight after it, and the recipe that
reaches any pair of angles. -/
namespace Sys2Proof.Machine

/-- Settles O3: at a reset edge the step is the reset. -/
theorem resetEdgeRestoresResetState : Obligations.ResetEdgeRestoresResetState := fun _ _ _ _ hpins =>
  ⟨step_reset hpins, rfl⟩

/-- At 1 Hz a phase moves by the operand itself, as a word (R212). -/
theorem phaseStep_oneHertz (phase a : Word) : phaseStep phase 0x00010000 a = phase + a :=
  calc phaseStep phase 0x00010000 a = phase + 1#32 * a := phaseStep_of_wholeHertz rfl phase a
    _ = phase + a := by rw [BitVec.one_mul]

/-- At frequency zero a phase stands still (R211). -/
theorem phaseStep_zeroHertz (phase a : Word) : phaseStep phase 0 a = phase :=
  calc phaseStep phase 0 a = phase + 0#32 * a := phaseStep_of_wholeHertz rfl phase a
    _ = phase := by rw [BitVec.zero_mul, BitVec.add_zero]

/-- `ADVANCE` writes the two phases and the response (R105). -/
theorem exec_advance (a : Word) (s : State) : exec (.advance a) s =
    .next { s with th := phaseStep s.th s.p.freq a, ct := phaseStep s.ct s.p.cfreq a, rsp := .none } :=
  exec_eq (.advance a) s

/-- Settles O25: one phase runs at 1 Hz, the other stands still. -/
theorem oneHertzAdvanceAddsOperand : Obligations.OneHertzAdvanceAddsOperand := by
  refine fun s a => ⟨fun hfreq hcfreq => ?_, fun hfreq hcfreq => ?_⟩
  · rw [exec_advance, hfreq, hcfreq, phaseStep_oneHertz, phaseStep_zeroHertz]
  · rw [exec_advance, hfreq, hcfreq, phaseStep_zeroHertz, phaseStep_oneHertz]

/-- At zero voltage the modulating value 0 exceeds the lowest triangle value, that of carrier 0, at every angle (R211). -/
theorem State.reset_sampleLegs : State.reset.sampleLegs = ⟨.pos, .pos, .pos, 0⟩ := by
  have hpos (phi : Word) : comparePhase phi 0 0 0 = .pos :=
    (comparePhase_async_zero_eq_pos_iff phi 0).2 (.inl (by decide))
  exact (PwmOut.mk.injEq ..).mpr ⟨hpos _, hpos _, hpos _, rfl⟩

/-- Both frequencies are zero after reset, so no time step moves a phase (R211). -/
theorem exec_advance_reset (a : Word) : exec (.advance a) State.reset = .next { State.reset with rsp := .none } := by
  have hfreq : State.reset.p.freq = 0 := rfl
  have hcfreq : State.reset.p.cfreq = 0 := rfl
  rw [exec_advance, hfreq, hcfreq, phaseStep_zeroHertz, phaseStep_zeroHertz]

/-- With every coefficient zero a filter answers 0, whatever its history and its input (R211). -/
theorem process_y_of_zero_coefs (h : Hist) (x : Int) : (process Coefs.zero h x).y = 0 := by
  have hsum : filterSum Coefs.zero h x = 0 := by simp [filterSum, Coefs.zero, s32]
  calc (process Coefs.zero h x).y = sat32 (filterRound 0) := congrArg (sat32 ∘ filterRound) hsum
    _ = 0 := by decide

/-- A first sample enters an empty history as its newest input; a zero output adds nothing else (R166, R211). -/
theorem process_hist_of_zero_coefs (x : Int) : (process Coefs.zero Hist.zero x).hist = ⟨u32 x, 0, 0, 0⟩ := by
  have hy := process_y_of_zero_coefs Hist.zero x
  exact (Hist.mk.injEq ..).mpr ⟨rfl, rfl, congrArg u32 hy, rfl⟩

/-- The state after `FCTL 1` straight after reset: the filters enabled with no coefficients (R211). -/
def State.resetEnabled : State := { State.reset with fen := true }

@[simp] theorem State.resetEnabled_fen : State.resetEnabled.fen = true := rfl
@[simp] theorem State.resetEnabled_c : State.resetEnabled.c = Coefs.zero := rfl
@[simp] theorem State.resetEnabled_h_get (k : LegName) : State.resetEnabled.h.get k = Hist.zero := State.reset_h_get k
@[simp] theorem State.resetEnabled_sampleLegs : State.resetEnabled.sampleLegs = ⟨.pos, .pos, .pos, 0⟩ :=
  State.reset_sampleLegs

/-- `FCTL 1` enables the filters, and `PROC` runs from there. -/
theorem execAll_fctl_proc_reset : execAll [.fctl 1, .proc] State.reset = .next State.resetEnabled.processLegs :=
  execAll_eq [.fctl 1, .proc] State.reset

/-- The first `PROC` with the filters enabled answers the legs of reset and three outputs 0 (R211). -/
theorem State.resetEnabled_processLegs_rsp : State.resetEnabled.processLegs.rsp = .filt 1 1 1 0 0 0 0 := by
  rw [State.processLegs_of_enabled State.resetEnabled_fen, State.filterLegs_rsp]
  simp only [State.resetEnabled_sampleLegs, State.resetEnabled_c, process_y_of_zero_coefs]
  rfl

/-- It shifts `+1` in the sample format into each history (R211). -/
theorem State.resetEnabled_processLegs_h_get (k : LegName) :
    State.resetEnabled.processLegs.h.get k = ⟨0x10000000, 0, 0, 0⟩ := by
  have hleg : State.resetEnabled.sampleLegs.leg k = .pos := by
    rw [State.resetEnabled_sampleLegs]
    cases k <;> rfl
  rw [State.processLegs_h_get, if_pos State.resetEnabled_fen, hleg, State.resetEnabled_c, State.resetEnabled_h_get,
    process_hist_of_zero_coefs, u32_leg_sample, if_pos rfl]

/-- Settles O2, sentence by sentence of R211. -/
theorem firstCommandsAfterReset : Obligations.FirstCommandsAfterReset := by
  refine ⟨?_, ?_, ?_, exec_advance_reset, exec_eq .snapshot State.reset⟩
  · rw [exec_eq, execNext, State.reset_sampleLegs]
    rfl
  · rw [exec_eq, execNext, State.processLegs_of_disabled rfl, State.reset_sampleLegs]
    rfl
  · exact ⟨_, execAll_fctl_proc_reset, State.resetEnabled_processLegs_rsp, State.resetEnabled_processLegs_h_get⟩

end Sys2Proof.Machine
